-- ==== Sys2Proof/Word.lean ====
section
/-! DEFINITION. The word types of FVCE and the plainest facts about their widths.
Bytes, frames and readings are unsigned; nothing in FVCE is signed (00_scope.md R8). -/

namespace Sys2Proof

/-- `u8`: an unsigned byte 0..255, bit 7 the most significant (R8). -/
abbrev Byte := BitVec 8

/-- `u16`: the concentration in tenths of ppm, `raw` (R64, R120). -/
abbrev Raw := BitVec 16

/-- A frame, inbound or outbound: exactly nine bytes indexed by the offset 0..8 (R9, R60). -/
abbrev Frame := Vector Byte 9

/-- An offset into a frame or into the buffer, 0..8 (R9, R40); the cursor is one (R25). -/
abbrev Offset := Fin 9

end Sys2Proof
end

