-- ==== Sys2Proof/Config.lean ====
section
/-! DEFINITION. What the source fixes (R6), the parameters it leaves open (R7), and the one open value to which the
spec gives no default: GAS_TYPE_CO (92_eei_decisions.md D3). -/

namespace Sys2Proof

/-! ## The constants of R6 -/

/-- FRAME_LEN: bytes in every frame. -/
abbrev frameLen : Nat := 9
/-- BUF_CAP: capacity of the frame buffer (R7, D6). -/
abbrev bufCap : Nat := 9
/-- HEADER_SENTINEL: offset 0 of every frame. -/
abbrev headerSentinel : Byte := 0xFF
/-- SEND_MARKER: offset 1 of every outbound command frame. -/
abbrev sendMarker : Byte := 0x01
/-- OP_ANSWER: offset 2 of the query command, offset 1 of an inbound answer frame. -/
abbrev opAnswer : Byte := 0x86
/-- OP_SWITCH_MODE: offset 2 of a mode-switch command. -/
abbrev opSwitchMode : Byte := 0x78
/-- SUB_UPLOAD: offset 3 of "switch to initiate-upload mode". -/
abbrev subUpload : Byte := 0x40
/-- SUB_QA: offset 3 of "switch to question/answer mode". -/
abbrev subQa : Byte := 0x41

/-- A millisecond count. The clock and `last_rx` show its low CLOCK_W bits, and time arithmetic is modulo 2^CLOCK_W
(R7, R12); the width is a parameter, so a count is a number and not a bit vector (log 3). -/
abbrev Time := Nat

/-- STALE_MS: the discard condition is "more than" this many milliseconds (R6, R134). -/
abbrev staleMs : Time := 500

/-! ## The parameters of R7 -/

/-- TYPE_CHECK: which reading of the test at cursor 1 the decoder uses (R83, R84; 90_conflicts.md C2). -/
inductive TypeCheck where
  | intended
  | asBuilt
  deriving DecidableEq, Repr

/-- CSUM_LAST: the last offset the checksum sums (R7, R100; 90_conflicts.md C1). -/
inductive CsumLast where
  | six
  | seven
  deriving DecidableEq, Repr

/-- The offset itself. -/
def CsumLast.toNat : CsumLast → Nat
  | .six => 6
  | .seven => 7

/-- The parameters a model takes as arguments (R7): fixed for an instance, never written by FVCE. -/
structure Config where
  /-- GAS_TYPE_CO: the type byte expected in receive-only mode; any of the 256 values is legal (note to D3). -/
  gasTypeCo : Byte
  /-- TYPE_CHECK. -/
  typeCheck : TypeCheck
  /-- CSUM_LAST. -/
  csumLast : CsumLast
  /-- FALLBACK_OPCODE: offset 2 of the frame built for an unrecognised selector (R115). -/
  fallbackOpcode : Byte
  /-- CLOCK_W: bits of the clock and of `last_rx`. -/
  clockW : Nat
  deriving DecidableEq, Repr

/-- The open value GAS_TYPE_CO of the instance that comes out of reset: no body, so nothing can be proved of it.
DESIGN CHOICE (log 1): the spec gives no value and says no default is normative (D3). -/
opaque Config.openGasTypeCo : Byte

/-- The spec's values of the parameters: TYPE_CHECK = INTENDED (D2), CSUM_LAST = 7 (D1), FALLBACK_OPCODE = 0x00 (D5),
CLOCK_W = 32 (D9); GAS_TYPE_CO stays open (D3). -/
def Config.spec : Config where
  gasTypeCo := Config.openGasTypeCo
  typeCheck := .intended
  csumLast := .seven
  fallbackOpcode := 0x00
  clockW := 32

end Sys2Proof
end

