-- ==== Sys2Proof/Machine/Checksum.lean ====
section
/-! DEFINITION. The Checksum engine (41_checksum.md): one pure function, shared by the decoder and the encoder. -/

namespace Sys2Proof.Machine

/-- `neg_8(v)`: 8-bit two's-complement negation, "bitwise NOT plus one" (R10, R100). -/
def neg8 (v : Byte) : Byte := (v ^^^ 0xFF) + 1

/-- The running sum `s <- (s + b[i]) mod 256`, from 0, in the order of the bytes (R100, R101). -/
def sum8 (bytes : List Byte) : Byte := bytes.foldl (· + ·) 0

/-- `Checksum(b, len)` for any sequence and length (R100, R106): it reads b[1] to b[len − 2].
`none` for len < 2, which is outside the definition (93_implementation_defined.md U14), and for a sequence shorter
than len. FVCE itself never calls it with a length other than 9. -/
def checksumLen (b : List Byte) (len : Nat) : Option Byte :=
  if 2 ≤ len ∧ len ≤ b.length then some (neg8 (sum8 ((b.drop 1).take (len - 2)))) else none

/-- `Checksum(f, 9)`: the sum of offsets 1..CSUM_LAST, negated (R100); the header and the checksum position are not
read. -/
def checksum (cfg : Config) (f : Frame) : Byte :=
  neg8 (sum8 ((f.toList.drop 1).take cfg.csumLast.toNat))

end Sys2Proof.Machine
end

