-- ==== Sys2Proof/Syntax.lean ====
section
/-! DEFINITION. The instructions of FVCE: the wire protocol's frames, one constructor per row of opcode_table.json
(R1, R66, R67). The host operations RESET, TICK and SEND have no bit pattern and are no rows of that table; they are
`HostOp` in Machine/State.lean. -/

namespace Sys2Proof

/-- The free fields of format IN, offsets 2 to 8 (R61). The checksum byte `cs` is a field like the others: whether it
matches is judged by the step at cursor 8 (R87), not by the syntax (log 12). -/
structure Payload where
  p0 : Byte
  p1 : Byte
  p2 : Byte
  p3 : Byte
  p4 : Byte
  r7 : Byte
  cs : Byte
  deriving DecidableEq, Repr

/-- The seven rows of opcode_table.json. -/
inductive Instr where
  /-- IN_ANSWER: inbound, type 0x86 (R66). -/
  | inAnswer (p : Payload)
  /-- IN_BROADCAST: inbound, type GAS_TYPE_CO (R66). -/
  | inBroadcast (p : Payload)
  /-- IN_OTHER: inbound, any other type (R66). -/
  | inOther (type : Byte) (p : Payload)
  /-- CMD_QUERY: outbound, "request answer/query" (R112). -/
  | cmdQuery
  /-- CMD_SET_UPLOAD: outbound, "switch to initiate-upload mode" (R113). -/
  | cmdSetUpload
  /-- CMD_SET_QA: outbound, "switch to question/answer mode" (R114). -/
  | cmdSetQa
  /-- CMD_FALLBACK: outbound, the unrecognised selector (R115). -/
  | cmdFallback
  deriving DecidableEq, Repr

/-- Which stream an instruction travels on. The bytes alone do not tell it (R54: the echo of a command is an ordinary
inbound frame). -/
inductive Direction where
  | inbound
  | outbound
  deriving DecidableEq, Repr

/-- The "direction" of the instruction's row in opcode_table.json. -/
def Instr.direction : Instr → Direction
  | .inAnswer _ | .inBroadcast _ | .inOther _ _ => .inbound
  | .cmdQuery | .cmdSetUpload | .cmdSetQa | .cmdFallback => .outbound

end Sys2Proof
end

