-- ==== Sys2Proof/WellFormed.lean ====
section
/-! DEFINITION. Which instructions are the reading of their own words, under a configuration. -/

namespace Sys2Proof

/-- An inbound kind is told by its type byte (R62, R66): 0x86 is always the answer frame, so a broadcast needs
GAS_TYPE_CO ≠ 0x86 ("this row coincides with IN_ANSWER" otherwise), and IN_OTHER is decoded last.
The fallback frame with FALLBACK_OPCODE = 0x86 is the query's nine bytes (R67, R115; log 11). -/
def Instr.wellFormed (cfg : Config) : Instr → Bool
  | .inAnswer _ => true
  | .inBroadcast _ => cfg.gasTypeCo != opAnswer
  | .inOther type _ => type != opAnswer && type != cfg.gasTypeCo
  | .cmdQuery => true
  | .cmdSetUpload => true
  | .cmdSetQa => true
  | .cmdFallback => cfg.fallbackOpcode != opAnswer

/-- The same as a decidable proposition. -/
abbrev Instr.WellFormed (cfg : Config) (i : Instr) : Prop := i.wellFormed cfg = true

end Sys2Proof
end

