-- ==== Sys2Proof/Decode.lean ====
section
/-! DEFINITION. Reading frames from bytes and writing them to bytes, offset 0 first (R43), from the layouts of
30_encoding.md (R61 to R63, R66, R67) and the numbering of opcode_table.json. -/

namespace Sys2Proof

/-- Why bytes are no frame of a direction. -/
inductive DecodeError where
  /-- fewer than nine bytes (R60) -/
  | truncated
  /-- offset 0 is not 0xFF (R61, R63) -/
  | badHeader
  /-- outbound: offset 1 is not 0x01 (R63) -/
  | badMarker
  /-- outbound: an offset 4..7 is not zero (R63, R70) -/
  | reservedNotZero
  /-- outbound: offset 8 is not the checksum (R63) -/
  | badCommandChecksum
  /-- outbound: (opcode, sub) is none of the four of R67 -/
  | unknownCommand
  deriving DecidableEq, Repr

/-- Format IN's kind, by the type byte compared whole (R62, R65, R66); IN_OTHER last. -/
def inboundKind (cfg : Config) (type : Byte) (p : Payload) : Instr :=
  if type = opAnswer then .inAnswer p
  else if type = cfg.gasTypeCo then .inBroadcast p
  else .inOther type p

/-- One inbound frame from the front of a byte stream, and the bytes after it (R60, R61). -/
def decodeInbound (cfg : Config) : List Byte → Except DecodeError (Instr × List Byte)
  | h :: type :: p0 :: p1 :: p2 :: p3 :: p4 :: r7 :: cs :: rest =>
    if h = headerSentinel then .ok (inboundKind cfg type ⟨p0, p1, p2, p3, p4, r7, cs⟩, rest)
    else .error .badHeader
  | _ => .error .truncated

/-- The command whose opcode and sub-code stand at offsets 2 and 3 (R67). -/
def commandKind (cfg : Config) (opcode sub : Byte) : Except DecodeError Instr :=
  if opcode = opAnswer ∧ sub = 0x00 then .ok .cmdQuery
  else if opcode = opSwitchMode ∧ sub = subUpload then .ok .cmdSetUpload
  else if opcode = opSwitchMode ∧ sub = subQa then .ok .cmdSetQa
  else if opcode = cfg.fallbackOpcode ∧ sub = 0x00 then .ok .cmdFallback
  else .error .unknownCommand

/-- One outbound command frame from the front of a byte stream, and the bytes after it (R63, R67, R70). -/
def decodeOutbound (cfg : Config) : List Byte → Except DecodeError (Instr × List Byte)
  | h :: marker :: opcode :: sub :: z4 :: z5 :: z6 :: z7 :: cs :: rest =>
    if h ≠ headerSentinel then .error .badHeader
    else if marker ≠ sendMarker then .error .badMarker
    else if z4 ≠ 0x00 ∨ z5 ≠ 0x00 ∨ z6 ≠ 0x00 ∨ z7 ≠ 0x00 then .error .reservedNotZero
    else if cs ≠ Machine.neg8 (marker + opcode + sub) then .error .badCommandChecksum
    else match commandKind cfg opcode sub with
      | .ok i => .ok (i, rest)
      | .error e => .error e
  | _ => .error .truncated

/-! ## The encoder -/

/-- Offsets 2 to 8 of format IN, in stream order (R61). -/
def payloadBytes (p : Payload) : List Byte := [p.p0, p.p1, p.p2, p.p3, p.p4, p.r7, p.cs]

/-- The nine bytes of an instruction, offset 0 first: R61 for inbound frames, the constant strings of R67 for the
commands, and R115's general form for the fallback. -/
def encode (cfg : Config) : Instr → List Byte
  | .inAnswer p => 0xFF :: 0x86 :: payloadBytes p
  | .inBroadcast p => 0xFF :: cfg.gasTypeCo :: payloadBytes p
  | .inOther type p => 0xFF :: type :: payloadBytes p
  | .cmdQuery => [0xFF, 0x01, 0x86, 0x00, 0x00, 0x00, 0x00, 0x00, 0x79]
  | .cmdSetUpload => [0xFF, 0x01, 0x78, 0x40, 0x00, 0x00, 0x00, 0x00, 0x47]
  | .cmdSetQa => [0xFF, 0x01, 0x78, 0x41, 0x00, 0x00, 0x00, 0x00, 0x46]
  | .cmdFallback =>
    [0xFF, 0x01, cfg.fallbackOpcode, 0x00, 0x00, 0x00, 0x00, 0x00, Machine.neg8 (0x01 + cfg.fallbackOpcode)]

/-! ## The opcode table's 72-bit numbers -/

/-- The byte at an offset of a 72-bit number: offset 0 is the most significant byte, bits 71:64 (R9, R61). -/
def tableByte (w : Nat) (offset : Nat) : Byte := BitVec.ofNat 8 (w >>> (8 * (8 - offset)))

/-- The nine bytes a table word stands for, in stream order; every bit from nbits up is zero (log 10). -/
def tableBytes (nbits w : Nat) : List Byte :=
  let v := w % 2 ^ nbits
  [tableByte v 0, tableByte v 1, tableByte v 2, tableByte v 3, tableByte v 4, tableByte v 5, tableByte v 6,
    tableByte v 7, tableByte v 8]

/-- The instruction a table word stands for: the exact command rows before the inbound rows, IN_OTHER last (log 10).
A number of more than 72 bits is no row of the table. -/
def decodeTableWord (nbits w : Nat) : Option Instr :=
  if 72 < nbits then none
  else match decodeOutbound Config.spec (tableBytes nbits w) with
    | .ok (i, _) => some i
    | .error _ => match decodeInbound Config.spec (tableBytes nbits w) with
      | .ok (i, _) => some i
      | .error _ => none

/-- The selector of SEND that builds a command (R111); `none` for an inbound frame, which no selector builds. -/
def commandSelector : Instr → Option Nat
  | .inAnswer _ => none
  | .inBroadcast _ => none
  | .inOther _ _ => none
  | .cmdQuery => some 0
  | .cmdSetUpload => some 1
  | .cmdSetQa => some 2
  | .cmdFallback => some 3

/-- The command a selector builds; every value other than 0, 1, 2 is the fallback (R111). -/
def selectorCommand : Nat → Instr
  | 0 => .cmdQuery
  | 1 => .cmdSetUpload
  | 2 => .cmdSetQa
  | _ => .cmdFallback

end Sys2Proof
end

