-- ==== Sys2Proof/Machine/State.lean ====
section
/-! DEFINITION. The state of FVCE (10_state.md R20), the ports' histories and queues it is seen through (R36), and the
reasons a step can stop. -/

namespace Sys2Proof.Machine

/-- The four conditions with a code, each with its recorded info (R141). -/
inductive Event where
  /-- EV_BAD_HEADER: the byte (R142). -/
  | badHeader (byte : Byte)
  /-- EV_BAD_TYPE: the byte (R143). -/
  | badType (byte : Byte)
  /-- EV_BAD_CHECKSUM: the received byte and the computed checksum (R144). -/
  | badChecksum (received computed : Byte)
  /-- EV_STALE: the cursor before the discard and the elapsed time (R145). -/
  | stale (cursor : Offset) (elapsed : Time)
  deriving DecidableEq, Repr

/-- How loudly the source asks for an event to be logged (R141, R157). -/
inductive Severity where
  /-- "log only (no fatal, no propagation)" -/
  | logOnly
  /-- "log a warning" -/
  | warning
  /-- "no log required beyond trace-level" -/
  | trace
  deriving DecidableEq, Repr

/-- One act on an output port: TX, SINK or EVENT (R41). -/
inductive Output where
  /-- `WriteBytes(s)`: one 9-byte sequence handed to the transport (R12, R110). -/
  | writeBytes (f : Frame)
  /-- `StatusClear()` (R125). -/
  | statusClear
  /-- `Publish(raw)` (R124). -/
  | publish (raw : Raw)
  /-- `raise EV_x(info)` (R140). -/
  | event (e : Event)
  deriving DecidableEq, Repr

/-- The three operations by which the host drives FVCE (R13, 44_host_operations.md). -/
inductive HostOp where
  /-- RESET, with the configuration bit RX_ONLY the host has fixed for the run that begins (R27, R130, R162). -/
  | reset (rxOnly : Bool)
  /-- TICK at millisecond count `now`, of which the clock shows the low CLOCK_W bits (R12), during which the transport delivers `arrivals` behind what it already holds (R131,
  R132). -/
  | tick (now : Time) (arrivals : List Byte)
  /-- SEND with a selector; any number, as R111 allows a wider selector. -/
  | send (sel : Nat)
  deriving DecidableEq, Repr

/-- What the outside does to FVCE, one item at a time (R36, R51, R136). -/
inductive Input where
  /-- the host invokes an operation -/
  | op (o : HostOp)
  /-- the transport receives bytes between operations (R51) -/
  | arrive (bytes : List Byte)
  /-- the host drives the configuration bit outside a RESET (93_implementation_defined.md U5) -/
  | driveRxOnly (rxOnly : Bool)
  /-- a second context invokes an operation while one runs (93_implementation_defined.md U6) -/
  | overlap (running invoked : HostOp)
  deriving DecidableEq, Repr

/-- The machine. `buf`, `cursor` and `lastRx` are FVCE's architectural state (R20); `cfg` and `rxOnly` are its
configuration (R7, R27); `rx`, `outputs` and `inputs` are the environment's side of the ports (R36). -/
structure State where
  /-- the parameters of R7 -/
  cfg : Config
  /-- RX_ONLY: false is Active, true is PassiveListen (R27, R152) -/
  rxOnly : Bool
  /-- `buf[0..8]` (R21) -/
  buf : Frame
  /-- `cursor`, 0..8: the offset of the next byte (R25) -/
  cursor : Offset
  /-- `last_rx` (R28), CLOCK_W bits wide: below 2^CLOCK_W in every state a run reaches -/
  lastRx : Time
  /-- the transport's receive queue, oldest first (R36, R42) -/
  rx : List Byte
  /-- everything FVCE has put on TX, SINK and EVENT, oldest first (R36, R50) -/
  outputs : List Output
  /-- what the outside will do next, soonest first (R13, R136) -/
  inputs : List Input
  deriving DecidableEq, Repr

/-- FVCE has no fatal condition: no bus error, no illegal frame, no arithmetic fault (R141, R150). No step faults, so
this type has no constructor. -/
inductive Fault where
  deriving DecidableEq, Repr

/-- Acts of the host to which the spec gives no meaning and which it refuses. -/
inductive Refusal where
  /-- An instruction with no meaning in this model; `exec` would raise it in an arm not yet written. Safe. -/
  | notModelled (mnemonic : String)
  /-- RX_ONLY driven to another value without a RESET (R27, U5: "refuse"). Raised by `driveRxOnly`. Safe. -/
  | rxOnlyChangedWithoutReset
  /-- Two operations at once (R52, R165, U6: "refuse"). Raised by `overlap`. Safe. -/
  | operationsOverlap
  deriving DecidableEq, Repr

/-- The bytes this model gives `buf` at reset: zeros. DESIGN CHOICE (log 5): the spec leaves them unspecified (R33). -/
def resetBuf : Frame := Vector.replicate 9 0

/-- The machine right after reset (R32 to R35, R160): the cursor at 0, `last_rx` 0, nothing emitted. RX_ONLY is the
scenario default 0 (R72; log 6), GAS_TYPE_CO stays open (log 1), and nothing has arrived or been asked yet. -/
def State.reset : State where
  cfg := Config.spec
  rxOnly := false
  buf := resetBuf
  cursor := 0
  lastRx := 0
  rx := []
  outputs := []
  inputs := []

end Sys2Proof.Machine
end

