-- ==== Sys2Proof/Machine/Ops.lean ====
section
/-! DEFINITION. The named operations every meaning is built from: the buffer, the cursor, the port primitives of R12,
giving up a frame attempt (R149), and the projections of the output history onto the ports of R41. -/

namespace Sys2Proof.Machine

/-! ## The buffer and the cursor -/

/-- `buf[i]`, that is `MemRead(i, 1)` (R11, R40). -/
def bufRead (i : Offset) (s : State) : Byte := s.buf[i]

/-- `buf[i] <- v`, that is `MemWrite(i, 1, v)` (R11, R40); every other byte keeps its value (R23). -/
def bufWrite (i : Offset) (v : Byte) (s : State) : State := { s with buf := s.buf.set i v }

/-- `cursor <- k` (R11). -/
def setCursor (k : Offset) (s : State) : State := { s with cursor := k }

/-- The low CLOCK_W bits of a millisecond count: what `Now()` gives of it (R7, R12). -/
def clockCount (cfg : Config) (t : Time) : Time := t % 2 ^ cfg.clockW

/-- `last_rx <- t`, a register of CLOCK_W bits (R28). -/
def setLastRx (t : Time) (s : State) : State := { s with lastRx := clockCount s.cfg t }

/-! ## The ports -/

/-- `Avail()`: how many received bytes the transport holds now (R12). -/
def avail (s : State) : Nat := s.rx.length

/-- The transport's queue becomes `bytes`. -/
def setRx (bytes : List Byte) (s : State) : State := { s with rx := bytes }

/-- `ReadByte()`: the oldest received byte, which leaves the queue; `none` when there is none (R12, U20). -/
def readByte (s : State) : Option (Byte × State) :=
  match s.rx with
  | [] => none
  | v :: rest => some (v, setRx rest s)

/-- One act on an output port, behind all earlier ones (R50). -/
def emit (o : Output) (s : State) : State := { s with outputs := s.outputs ++ [o] }

/-- `WriteBytes(s)` (R12). It takes all nine bytes at once and cannot fail (D19; log 16). -/
def writeBytes (f : Frame) (s : State) : State := emit (.writeBytes f) s

/-- `StatusClear()` (R12, R125). -/
def statusClear (s : State) : State := emit .statusClear s

/-- `Publish(raw)` (R12, R124). -/
def publish (raw : Raw) (s : State) : State := emit (.publish raw) s

/-- `raise EV_x(info)`: an event record on the EVENT port; it changes nothing else (R11, R140). -/
def raiseEvent (e : Event) (s : State) : State := emit (.event e) s

/-- What the outside will do next becomes `l`. -/
def setInputs (l : List Input) (s : State) : State := { s with inputs := l }

/-! ## Giving up a frame attempt

FVCE's "exception entry" (R149): emit the event, then `cursor <- 0`. Nothing is saved, no mode changes, the buffer keeps
its bytes (R23). There is no return operation (R150): the next byte is simply judged at cursor 0. -/

/-- The whole entry sequence of every condition of R141 with a code (R149). -/
def reject (e : Event) (s : State) : State := setCursor 0 (raiseEvent e s)

/-! ## Sequencing outcomes -/

/-- Go on from a next state; a fault or a refusal ends the run. -/
def andThen (o : Host.Outcome State Fault Refusal) (k : State → Host.Outcome State Fault Refusal) :
    Host.Outcome State Fault Refusal :=
  match o with
  | .next s => k s
  | .fault r => .fault r
  | .refused r => .refused r

/-! ## The event records (R141) -/

/-- The code of an event (R141, D15). -/
def eventCode : Event → Nat
  | .badHeader _ => 1
  | .badType _ => 2
  | .badChecksum _ _ => 3
  | .stale _ _ => 4

/-- The severity the source gives an event (R141). -/
def eventSeverity : Event → Severity
  | .badHeader _ => .logOnly
  | .badType _ => .logOnly
  | .badChecksum _ _ => .warning
  | .stale _ _ => .trace

/-! ## The ports' streams, read off the output history (R41) -/

/-- The TX stream: the bytes handed to the transport, in order; the nine of one call stand together (R50). -/
def txStream (outs : List Output) : List Byte :=
  outs.flatMap fun o => match o with
    | .writeBytes f => f.toList
    | .statusClear => []
    | .publish _ => []
    | .event _ => []

/-- Whether an act is a call on the SINK port (R41). -/
def isSinkCall : Output → Bool
  | .writeBytes _ => false
  | .statusClear => true
  | .publish _ => true
  | .event _ => false

/-- The SINK calls, in order (R41, R72). -/
def sinkCalls (outs : List Output) : List Output := outs.filter isSinkCall

/-- The readings published, in order (R124). -/
def readings (outs : List Output) : List Raw :=
  outs.filterMap fun o => match o with
    | .writeBytes _ => none
    | .statusClear => none
    | .publish raw => some raw
    | .event _ => none

/-- The events, in order (R140, R148). -/
def eventLog (outs : List Output) : List Event :=
  outs.filterMap fun o => match o with
    | .writeBytes _ => none
    | .statusClear => none
    | .publish _ => none
    | .event e => some e

/-- How many frames were accepted: one `StatusClear()` each (R125). -/
def acceptedFrames (outs : List Output) : Nat := outs.count .statusClear

end Sys2Proof.Machine
end

