-- ==== Sys2Proof/Machine/Operands.lean ====
section
/-! DEFINITION. The operand forms: the 16-bit reading assembled from two payload bytes (R64, R120), the selector decode
of the encoder (R111), the published quantity (R123), and the frame macros of R73. -/

namespace Sys2Proof.Machine

/-- `raw <- zext_16(hi) * 256 + zext_16(lo)` (R64, R120). -/
def rawOf (hi lo : Byte) : Raw := hi.setWidth 16 * 256 + lo.setWidth 16

/-- The offset of the high byte of the reading, by the type byte alone (R62, R120, R121). -/
def hiOffset (type : Byte) : Offset := if type = opAnswer then 4 else 2

/-- The offset of the low byte of the reading (R62, R120, R121). -/
def loOffset (type : Byte) : Offset := if type = opAnswer then 5 else 3

/-- The reading of a frame (R120). -/
def frameRaw (f : Frame) : Raw := rawOf f[hiOffset f[1]] f[loOffset f[1]]

/-- The concentration in ppm that the sink is given: the exact rational raw / 10 (R123, D16). -/
def ppm (raw : Raw) : ℚ := (raw.toNat : ℚ) / 10

/-- `OpSub(sel)`: the opcode and the sub-code a selector stands for (R111). -/
def opSub (cfg : Config) : Nat → Byte × Byte
  | 0 => (opAnswer, 0x00)
  | 1 => (opSwitchMode, subUpload)
  | 2 => (opSwitchMode, subQa)
  | _ => (cfg.fallbackOpcode, 0x00)

/-! ## The frame macros (R73) -/

/-- A frame of the nine given bytes with the checksum stamped at offset 8 (R104). -/
def stamp (cfg : Config) (f : Frame) : Frame := f.set 8 (checksum cfg f)

/-- `ANSWER(raw)`: `FF 86 00 00 hi lo 00 00 cs`. The zeros are the macro's choice (R73). -/
def answerMacro (cfg : Config) (raw : Raw) : Frame :=
  stamp cfg #v[headerSentinel, opAnswer, 0x00, 0x00, raw.extractLsb' 8 8, raw.extractLsb' 0 8, 0x00, 0x00, 0x00]

/-- `BROADCAST(raw)`: `FF <GAS_TYPE_CO> hi lo 00 00 00 00 cs` (R73). -/
def broadcastMacro (cfg : Config) (raw : Raw) : Frame :=
  stamp cfg #v[headerSentinel, cfg.gasTypeCo, raw.extractLsb' 8 8, raw.extractLsb' 0 8, 0x00, 0x00, 0x00, 0x00, 0x00]

end Sys2Proof.Machine
end

