-- ==== Sys2Proof/Machine/Encoder.lean ====
section
/-! DEFINITION. The Command Encoder (42_command_encoder.md) and the meanings of the four command frames. -/

namespace Sys2Proof.Machine

/-- The frame `Encode(sel)` builds: fresh, never `buf`; opcode and sub-code from the selector, the checksum stamped after
offsets 0 to 7 are final (R110). -/
def commandFrame (cfg : Config) (sel : Nat) : Frame :=
  let f : Frame := #v[headerSentinel, sendMarker, 0x00, 0x00, 0x00, 0x00, 0x00, 0x00, 0x00]
  let f := (f.set 2 (opSub cfg sel).1).set 3 (opSub cfg sel).2
  f.set 8 (checksum cfg f)

/-- `Encode(sel)`: the frame is handed to the transport; no FVCE state is read or written, no event, no error
(R110). -/
def encodeCommand (sel : Nat) (s : State) : State := writeBytes (commandFrame s.cfg sel) s

/-- CMD_QUERY: `Encode(0)` (R112). -/
def execCmdQuery (s : State) : Host.Outcome State Fault Refusal := .next (encodeCommand 0 s)

/-- CMD_SET_UPLOAD: `Encode(1)` (R113). -/
def execCmdSetUpload (s : State) : Host.Outcome State Fault Refusal := .next (encodeCommand 1 s)

/-- CMD_SET_QA: `Encode(2)` (R114). -/
def execCmdSetQa (s : State) : Host.Outcome State Fault Refusal := .next (encodeCommand 2 s)

/-- CMD_FALLBACK: `Encode(3)`, which every selector but 0, 1, 2 equals (R111, R115). -/
def execCmdFallback (s : State) : Host.Outcome State Fault Refusal := .next (encodeCommand 3 s)

end Sys2Proof.Machine
end

