-- ==== Sys2Proof/Machine/Extractor.lean ====
section
/-! DEFINITION. The Concentration Extractor (43_concentration_extractor.md). -/

namespace Sys2Proof.Machine

/-- `Extract(f)`: StatusClear first and always, then the reading is published unless it is zero (R120, R122, R125). It
writes no FVCE state and raises no event. -/
def extract (f : Frame) (s : State) : State :=
  let s := statusClear s
  let raw := frameRaw f
  if 0 < raw then publish raw s else s

/-- The output acts of `Extract(f)`, in order (R120; rule R50 fixes that order). -/
def extractOutputs (f : Frame) : List Output :=
  if 0 < frameRaw f then [.statusClear, .publish (frameRaw f)] else [.statusClear]

end Sys2Proof.Machine
end

