-- ==== Sys2Proof/Machine/Flags.lean ====
section
/-! DEFINITION. FVCE has no condition codes and no status flags (R30). What decides between two effects is computed when
it is needed and stored nowhere: the header test (R81), the type test in both readings (R83, R84), the checksum test
(R87) and the staleness test (R131, R134). -/

namespace Sys2Proof.Machine

/-- The header test at cursor 0 (R81). -/
def headerOk (v : Byte) : Bool := v == headerSentinel

/-- `TypeOk(v)` under TYPE_CHECK = INTENDED: select the expected value by mode, then compare (R83). -/
def typeOkIntended (cfg : Config) (rxOnly : Bool) (v : Byte) : Bool :=
  v == (if rxOnly then cfg.gasTypeCo else opAnswer)

/-- `TypeOk(v)` under TYPE_CHECK = AS_BUILT: the byte is compared with the boolean, and the constant that the
conditional yields counts as true when it is not zero (R84). PRESUMED (log 15): the integer conversions are C++'s, which
the spec supplies from general knowledge (93_implementation_defined.md G2). -/
def typeOkAsBuilt (cfg : Config) (rxOnly : Bool) (v : Byte) : Bool :=
  (if v == (if rxOnly then 1 else 0) then cfg.gasTypeCo else opAnswer) != 0

/-- `TypeOk(v)`, in the reading the parameter TYPE_CHECK selects (R82). -/
def typeOk (cfg : Config) (rxOnly : Bool) (v : Byte) : Bool :=
  match cfg.typeCheck with
  | .intended => typeOkIntended cfg rxOnly v
  | .asBuilt => typeOkAsBuilt cfg rxOnly v

/-- The checksum test at cursor 8: the stored byte 8 against the computed one (R87). -/
def checksumOk (cfg : Config) (f : Frame) : Bool := checksum cfg f == f[8]

/-- `a -_W b`: subtraction modulo 2^W, the result in 0..2^W − 1 (R10). -/
def subMod (w : Nat) (a b : Time) : Time := (((a : Int) - (b : Int)) % ((2 ^ w : Nat) : Int)).toNat

/-- The elapsed time of a tick at `now`: `(now − last_rx) mod 2^CLOCK_W` (R131, R134). -/
def elapsed (now : Time) (s : State) : Time := subMod s.cfg.clockW now s.lastRx

/-- The staleness test: a partial frame is pending and strictly more than STALE_MS have elapsed (R131, R134). -/
def isStale (now : Time) (s : State) : Bool := decide (0 < s.cursor) && decide (staleMs < elapsed now s)

end Sys2Proof.Machine
end

