-- ==== Sys2Proof/Machine/Decoder.lean ====
section
/-! DEFINITION. The Frame Decoder state machine (40_frame_decoder.md): one received byte in, one transition out. -/

namespace Sys2Proof.Machine

/-- Step at cursor 0: the header test (R81). -/
def step0 (v : Byte) (s : State) : State :=
  if headerOk v then setCursor 1 s else reject (.badHeader v) s

/-- Step at cursor 1: the message-type test (R82). -/
def step1 (v : Byte) (s : State) : State :=
  if typeOk s.cfg s.rxOnly v then setCursor 2 s else reject (.badType v) s

/-- Step at cursor 2, 3, 4, 5 or 6: a payload byte, accepted unconditionally (R85). -/
def stepPayload (k : Offset) (s : State) : State := setCursor (k + 1) s

/-- Step at cursor 7: the reserved byte, not tested (R86). -/
def step7 (s : State) : State := setCursor 8 s

/-- Step at cursor 8: the checksum test and frame completion; the cursor is written last, whatever the outcome (R87). -/
def step8 (v : Byte) (s : State) : State :=
  if checksumOk s.cfg s.buf then setCursor 0 (extract s.buf s)
  else reject (.badChecksum v (checksum s.cfg s.buf)) s

/-- `RxStep(v)`: the whole effect of one received byte. It is stored first, then judged by the test of its offset, then
the cursor is written (R80, D7). -/
def rxStep (v : Byte) (s : State) : State :=
  let k := s.cursor
  let s := bufWrite k v s
  if k = 0 then step0 v s
  else if k = 1 then step1 v s
  else if k = 7 then step7 s
  else if k = 8 then step8 v s
  else stepPayload k s

/-- `RxStep` for each byte, in arrival order (R132). -/
def feed (bytes : List Byte) (s : State) : State := bytes.foldl (fun s v => rxStep v s) s

/-! ## The functional form (R90) -/

/-- "(new state, optional completed-frame, optional reject signal)", and the signal "frame complete" (R90). -/
structure ByteResult where
  cursor : Offset
  buf : Frame
  /-- the argument of Extract, when the frame was accepted -/
  accepted : Option Frame
  /-- the reject signal -/
  signal : Option Event
  /-- set by every step at cursor 8, accepted or not -/
  frameComplete : Bool
  deriving DecidableEq, Repr

/-- The pure function of R90, in the words of the transition table R88: the state is (cursor, buf). -/
def byteResult (cfg : Config) (rxOnly : Bool) (cursor : Offset) (buf : Frame) (v : Byte) : ByteResult :=
  let buf := buf.set cursor v
  match cursor with
  | 0 => if v = headerSentinel then ⟨1, buf, none, none, false⟩ else ⟨0, buf, none, some (.badHeader v), false⟩
  | 1 => if typeOk cfg rxOnly v then ⟨2, buf, none, none, false⟩ else ⟨0, buf, none, some (.badType v), false⟩
  | 2 => ⟨3, buf, none, none, false⟩
  | 3 => ⟨4, buf, none, none, false⟩
  | 4 => ⟨5, buf, none, none, false⟩
  | 5 => ⟨6, buf, none, none, false⟩
  | 6 => ⟨7, buf, none, none, false⟩
  | 7 => ⟨8, buf, none, none, false⟩
  | 8 =>
    if v = checksum cfg buf then ⟨0, buf, some buf, none, true⟩
    else ⟨0, buf, none, some (.badChecksum v (checksum cfg buf)), true⟩

/-- The output acts a byte's result stands for: those of Extract on an accepted frame, or the reject signal's event. -/
def byteOutputs (r : ByteResult) : List Output :=
  match r.accepted, r.signal with
  | some f, _ => extractOutputs f
  | none, some e => [.event e]
  | none, none => []

end Sys2Proof.Machine
end

