-- ==== Sys2Proof/Machine/Inbound.lean ====
section
/-! DEFINITION. The meanings of the inbound frames: what FVCE does when the nine bytes of a frame are drained, from
whatever cursor it stands at (R80, R89). From cursor 0 they are tested as header, type and checksum and handed to the
extractor (R66, R121); from another cursor the decoder is out of step with the frame and each byte is judged at the
cursor it meets (R45, R168). -/

namespace Sys2Proof.Machine

/-- The nine bytes of an inbound frame, as a frame (R61). -/
def inboundFrame (type : Byte) (p : Payload) : Frame :=
  #v[headerSentinel, type, p.p0, p.p1, p.p2, p.p3, p.p4, p.r7, p.cs]

/-- `RxStep` for each of the nine bytes of a frame, offset 0 first (R43, R89). -/
def feedFrame (type : Byte) (p : Payload) (s : State) : State :=
  feed (inboundFrame type p).toList s

/-- IN_ANSWER: a frame of type 0x86 arrives (R66, R121). -/
def execInAnswer (p : Payload) (s : State) : Host.Outcome State Fault Refusal := .next (feedFrame opAnswer p s)

/-- IN_BROADCAST: a frame of type GAS_TYPE_CO arrives (R66, R121). -/
def execInBroadcast (p : Payload) (s : State) : Host.Outcome State Fault Refusal :=
  .next (feedFrame s.cfg.gasTypeCo p s)

/-- IN_OTHER: a frame of any other type arrives (R66, R121); under INTENDED it is rejected at cursor 1 (R82, R83). -/
def execInOther (type : Byte) (p : Payload) (s : State) : Host.Outcome State Fault Refusal :=
  .next (feedFrame type p s)

end Sys2Proof.Machine
end

