-- ==== Sys2Proof/Machine/Dispatch.lean ====
section
/-! DEFINITION. One arm per constructor of Instr. -/

namespace Sys2Proof.Machine

def exec (i : Instr) (s : State) : Host.Outcome State Fault Refusal :=
  match i with
  -- inbound frames (R66)
  | .inAnswer p => Sys2Proof.Machine.execInAnswer p s
  | .inBroadcast p => Sys2Proof.Machine.execInBroadcast p s
  | .inOther type p => Sys2Proof.Machine.execInOther type p s
  -- outbound command frames (R67)
  | .cmdQuery => Sys2Proof.Machine.execCmdQuery s
  | .cmdSetUpload => Sys2Proof.Machine.execCmdSetUpload s
  | .cmdSetQa => Sys2Proof.Machine.execCmdSetQa s
  | .cmdFallback => Sys2Proof.Machine.execCmdFallback s

end Sys2Proof.Machine
end

