-- ==== Sys2Proof/Machine/HostOps.lean ====
section
/-! DEFINITION. The host operations RESET, TICK and SEND (44_host_operations.md), the host's start-up sequence
(70_reset_and_hazards.md), and what each input does. -/

namespace Sys2Proof.Machine

/-! ## RESET -/

/-- RESET (R130): the registers take their reset values and RX_ONLY the configured one. It writes nothing to any port and
does not empty the transport's queue. The value given to `buf` is the model's (R33; log 5). -/
def doReset (rxOnly : Bool) (s : State) : State :=
  { s with rxOnly := rxOnly, buf := resetBuf, cursor := 0, lastRx := 0 }

/-! ## TICK -/

/-- The staleness rule: before any newly available byte is stepped, a stale partial frame is discarded (R131, R145). -/
def discardStale (now : Time) (s : State) : State :=
  if isStale now s then reject (.stale s.cursor (elapsed now s)) s else s

/-- The part of a TICK before the drain: the staleness test on the old `last_rx`, then the timestamp, once per tick
(R131). -/
def tickStart (now : Time) (s : State) : State := setLastRx now (discardStale now s)

/-- The drain `while Avail() != 0` (R131). Where the front of the queue is a whole inbound frame it is fetched and run as
the instruction it is, else one byte is read and stepped; the two are the same bytes through `RxStep`
(Laws/HostOps.lean, `drain_eq_feed`; log 9). The fuel is the queue's length, which bounds the drain because a tick's
byte list is finite (R132, R169, U16). -/
def drain : Nat → State → Host.Outcome State Fault Refusal
  | 0, s => .next s
  | fuel + 1, s =>
    match readByte s with
    | none => .next s
    | some (v, s') =>
      match decodeInbound s.cfg s.rx with
      | .ok (i, rest) => andThen (exec i (setRx rest s)) (drain fuel)
      | .error _ => drain fuel (rxStep v s')

/-- TICK (R131): an idle tick changes nothing (R133); otherwise the staleness test, the timestamp and the drain. -/
def doTick (now : Time) (s : State) : Host.Outcome State Fault Refusal :=
  if avail s = 0 then .next s
  else
    let s := tickStart now s
    drain (avail s) s

/-! ## SEND -/

/-- SEND (R135): the command the selector stands for is executed (R111). -/
def doSend (sel : Nat) (s : State) : Host.Outcome State Fault Refusal := exec (selectorCommand sel) s

/-! ## Inputs -/

/-- One host operation, run to completion (R13, R50). The bytes of `TICK(now, bytes)` are everything the transport
delivers to the tick, behind what it already held (R132, D25). -/
def doOp (o : HostOp) (s : State) : Host.Outcome State Fault Refusal :=
  match o with
  | .reset rxOnly => .next (doReset rxOnly s)
  | .tick now arrivals => doTick now (setRx (s.rx ++ arrivals) s)
  | .send sel => doSend sel s

/-- One input. A drive of RX_ONLY to the value it has is no change; to another value it is refused (R27, U5), and so are
overlapping operations (R52, U6). -/
def doInput (x : Input) (s : State) : Host.Outcome State Fault Refusal :=
  match x with
  | .op o => doOp o s
  | .arrive bytes => .next (setRx (s.rx ++ bytes) s)
  | .driveRxOnly rxOnly => if rxOnly = s.rxOnly then .next s else .refused .rxOnlyChangedWithoutReset
  | .overlap _ _ => .refused .operationsOverlap

/-- The next input, taken off the list and done. With none left FVCE is idle with its state held (R136, R158). -/
def takeInput (s : State) : Host.Outcome State Fault Refusal :=
  match s.inputs with
  | [] => .next s
  | x :: rest => doInput x (setInputs rest s)

/-! ## Start-up -/

/-- The host's start-up: fix RX_ONLY, RESET, and in Active mode only the initial mode-set command, which the spec takes to
be SET_QA (R162, R163, D14). -/
def startup (rxOnly : Bool) : List Input :=
  if rxOnly then [.op (.reset true)] else [.op (.reset false), .op (.send 2)]

/-! ## Where a table word is fetched from -/

/-- A command word is asked for by the SEND of its selector; any other word stands in the receive queue, alone, and the
next operation is a TICK at the time of the last one, so that nothing is stale and no register but those the frame
writes changes (log 7). -/
def placeWord (nbits w : Nat) (s : State) : State :=
  let bytes := tableBytes nbits w
  match decodeOutbound s.cfg bytes with
  | .ok (i, _) =>
    match commandSelector i with
    | some sel => setInputs (.op (.send sel) :: s.inputs) s
    | none => s
  | .error _ => setInputs (.op (.tick s.lastRx []) :: s.inputs) (setRx bytes s)

end Sys2Proof.Machine
end

