-- ==== Sys2Proof/Machine/Step.lean ====
section
/-! DEFINITION. One step of the machine: one thing the outside does, with FVCE's whole reaction (R13, R50). -/

namespace Sys2Proof.Machine

/-- One step: the next input, run to completion (R13). -/
def step (s : State) : Host.Outcome State Fault Refusal := takeInput s

/-- The state with the table word `w` where the next step fetches its instruction (log 7). -/
def State.withFetchWord (s : State) (nbits w : Nat) : State := placeWord nbits w s

end Sys2Proof.Machine
end

