-- ==== Sys2Proof/Safety.lean ====
section
/-! DEFINITION. What counts as a legal outside and a safe run, the invariants of the frame attempt and of `last_rx`, and when two states
differ only in buffer bytes that no rule reads. -/

namespace Sys2Proof.Machine

/-! ## Safe runs -/

/-- Whether every act of the outside has a meaning, given RX_ONLY as it stands: no drive of RX_ONLY to another value
except by RESET (R27), no overlap (R52), following RX_ONLY through the RESETs. -/
def legalInputs : Bool → List Input → Bool
  | _, [] => true
  | _, .op (.reset b) :: rest => legalInputs b rest
  | rxOnly, .op (.tick _ _) :: rest => legalInputs rxOnly rest
  | rxOnly, .op (.send _) :: rest => legalInputs rxOnly rest
  | rxOnly, .arrive _ :: rest => legalInputs rxOnly rest
  | rxOnly, .driveRxOnly b :: rest => b == rxOnly && legalInputs rxOnly rest
  | _, .overlap _ _ :: _ => false

/-- A safe run: `n` steps, none of which faults or is refused. -/
def RunsSafely (n : Nat) (s : State) : Prop := ∃ t, Host.Core.run Sys2Proof.core n s = .next t

/-! ## The frame attempt -/

/-- What the bytes below the cursor are (R89(b)): past offset 0 stands the header sentinel, and past offset 1 a type byte
that passes the test of the mode. -/
def AttemptInv (s : State) : Prop :=
  (0 < s.cursor → s.buf[0] = headerSentinel) ∧ (1 < s.cursor → typeOk s.cfg s.rxOnly s.buf[1] = true)

/-- `last_rx` holds CLOCK_W bits (R7, R28). -/
def ClockInv (s : State) : Prop := s.lastRx < 2 ^ s.cfg.clockW

/-- The two states are the same but for buffer bytes at or above the cursor, the ones R24 calls stale or unwritten. -/
def SameButStaleBytes (s t : State) : Prop :=
  t = { s with buf := t.buf } ∧ ∀ i : Offset, i < s.cursor → t.buf[i] = s.buf[i]

/-- The outcomes are next states that are the same but for stale bytes, or the same stop. -/
def SameOutcomeButStaleBytes (x y : Host.Outcome State Fault Refusal) : Prop :=
  match x, y with
  | .next s, .next t => SameButStaleBytes s t
  | .refused r, .refused q => r = q
  | _, _ => False

end Sys2Proof.Machine
end

