-- ==== Sys2Proof/Certificates/Slice0/Obligations.lean ====
section
/-! DEFINITION. The statements for the provers, from the numbered rules of spec/. Each docstring names the rule it states
or, where the spec marks its sentence as an inference of its own, the section it rests on. -/

open Sys2Proof Sys2Proof.Machine

/-! ## Fetching, decoding and encoding -/

/-- A step runs the decoded instruction: when the queue at a TICK is one inbound frame, the step is the execution of the
decoded frame after the tick's staleness test and timestamp, with the input and the frame's bytes consumed. -/
def Obligations.TickStepRunsTheDecodedFrame : Prop :=
  ∀ (s : State) (now : Time) (arrivals : List Byte) (later : List Input) (i : Instr),
    s.inputs = .op (.tick now arrivals) :: later →
    decodeInbound s.cfg (s.rx ++ arrivals) = .ok (i, []) →
    step s = exec i (tickStart now { s with inputs := later, rx := [] })

/-- A step runs the selected command: a SEND is the execution of the command its selector stands for (R111), and that
hands one frame to TX and changes nothing else (R135). -/
def Obligations.SendStepRunsTheSelectedCommand : Prop :=
  ∀ (s : State) (sel : Nat) (later : List Input), s.inputs = .op (.send sel) :: later →
    step s = exec (selectorCommand sel) { s with inputs := later } ∧
    step s = .next { s with inputs := later, outputs := s.outputs ++ [.writeBytes (commandFrame s.cfg sel)] }

/-- A table word placed for the next step is run by it: an inbound word as the frame in the receive queue, a command word
as the SEND that builds it. What the step leaves of the placed word's surroundings is the model's convention (log 7);
`last_rx` keeps its value when it is one of CLOCK_W bits, as it is in every state a run reaches (StepKeepsInvariants). -/
def Obligations.PlacedWordIsRunByTheNextStep : Prop :=
  ∀ (s : State) (nbits w : Nat) (i : Instr),
    (decodeOutbound s.cfg (tableBytes nbits w) = .ok (i, []) →
      step (s.withFetchWord nbits w) = exec i s) ∧
    (ClockInv s → (∀ r, decodeOutbound s.cfg (tableBytes nbits w) ≠ .ok r) →
      decodeInbound s.cfg (tableBytes nbits w) = .ok (i, []) →
      step (s.withFetchWord nbits w) = exec i { s with rx := [] })

/-- A few words written out from the encodings of R61 and R67 decode to the instructions they stand for. -/
def Obligations.WrittenOutWordsDecode : Prop :=
  decodeTableWord 72 0xFF0186000000000079 = some .cmdQuery ∧
  decodeTableWord 72 0xFF0178400000000047 = some .cmdSetUpload ∧
  decodeTableWord 72 0xFF0178410000000046 = some .cmdSetQa ∧
  decodeTableWord 72 0xFF01000000000000FF = some .cmdFallback ∧
  decodeTableWord 72 0xFF86123456789ABC10 = some (.inAnswer ⟨0x12, 0x34, 0x56, 0x78, 0x9A, 0xBC, 0x10⟩)

/-- Decoding an encoded inbound frame gives it back, whatever bytes follow it on the stream. -/
def Obligations.InboundDecodeOfEncode : Prop :=
  ∀ (cfg : Config) (i : Instr) (rest : List Byte), i.WellFormed cfg → i.direction = .inbound →
    decodeInbound cfg (encode cfg i ++ rest) = .ok (i, rest)

/-- Decoding an encoded command frame gives it back, whatever bytes follow it on the stream. -/
def Obligations.OutboundDecodeOfEncode : Prop :=
  ∀ (cfg : Config) (i : Instr) (rest : List Byte), i.WellFormed cfg → i.direction = .outbound →
    decodeOutbound cfg (encode cfg i ++ rest) = .ok (i, rest)

/-- What decodes is well formed, of the stream's direction, and encodes back to the very bytes: no word has two readings
on one stream and no bit of a frame is dropped. -/
def Obligations.EncodeOfDecodeBothStreams : Prop :=
  ∀ (cfg : Config) (bytes rest : List Byte) (i : Instr),
    (decodeInbound cfg bytes = .ok (i, rest) →
      i.WellFormed cfg ∧ i.direction = .inbound ∧ encode cfg i ++ rest = bytes) ∧
    (decodeOutbound cfg bytes = .ok (i, rest) →
      i.WellFormed cfg ∧ i.direction = .outbound ∧ encode cfg i ++ rest = bytes)

/-- The forms WellFormed leaves out are other names of the same words: with GAS_TYPE_CO = 0x86 a broadcast frame is an
answer frame, and with FALLBACK_OPCODE = 0x86 the fallback frame is the query (log 11). -/
def Obligations.AliasedRowsShareTheirWords : Prop :=
  ∀ (cfg : Config) (p : Payload),
    (cfg.gasTypeCo = 0x86 → encode cfg (.inBroadcast p) = encode cfg (.inAnswer p)) ∧
    (cfg.fallbackOpcode = 0x86 → encode cfg .cmdFallback = encode cfg .cmdQuery) ∧
    encode cfg (.inOther 0x86 p) = encode cfg (.inAnswer p) ∧
    encode cfg (.inOther cfg.gasTypeCo p) = encode cfg (.inBroadcast p)

/-! ## The Frame Decoder, one rule per offset -/

/-- R81: the header test at cursor 0, with everything it leaves unchanged. -/
def Obligations.HeaderStep : Prop :=
  ∀ (s : State) (v : Byte), s.cursor = 0 →
    rxStep v s =
      if v = 0xFF then { s with buf := s.buf.set 0 v, cursor := 1 }
      else { s with buf := s.buf.set 0 v, cursor := 0, outputs := s.outputs ++ [.event (.badHeader v)] }

/-- R82: the message-type test at cursor 1, with everything it leaves unchanged. -/
def Obligations.TypeStep : Prop :=
  ∀ (s : State) (v : Byte), s.cursor = 1 →
    rxStep v s =
      if typeOk s.cfg s.rxOnly v then { s with buf := s.buf.set 1 v, cursor := 2 }
      else { s with buf := s.buf.set 1 v, cursor := 0, outputs := s.outputs ++ [.event (.badType v)] }

/-- R83: under INTENDED exactly one type is accepted, the one the mode expects. -/
def Obligations.IntendedTypeTest : Prop :=
  ∀ (cfg : Config) (rxOnly : Bool) (v : Byte), cfg.typeCheck = .intended →
    (typeOk cfg rxOnly v = true ↔ v = if rxOnly then cfg.gasTypeCo else 0x86)

/-- Under AS_BUILT every type is accepted but one value when GAS_TYPE_CO is 0x00. The integer conversions are the spec's
from general knowledge (log 15). -/
def Obligations.AsBuiltTypeTest : Prop :=
  ∀ (cfg : Config) (rxOnly : Bool) (v : Byte), cfg.typeCheck = .asBuilt →
    (typeOk cfg rxOnly v = false ↔ cfg.gasTypeCo = 0x00 ∧ v = if rxOnly then 0x01 else 0x00)

/-- R85: payload bytes are accepted unconditionally. -/
def Obligations.PayloadStep : Prop :=
  ∀ (s : State) (v : Byte), 2 ≤ s.cursor.val → s.cursor.val ≤ 6 →
    rxStep v s = { s with buf := s.buf.set s.cursor v, cursor := s.cursor + 1 }

/-- R86: the reserved byte is not tested. -/
def Obligations.ReservedByteStep : Prop :=
  ∀ (s : State) (v : Byte), s.cursor = 7 →
    rxStep v s = { s with buf := s.buf.set 7 v, cursor := 8 }

/-- R87: the checksum test and frame completion; on acceptance Extract runs on the completed frame, else
EV_BAD_CHECKSUM with the received and the computed byte. -/
def Obligations.ChecksumStep : Prop :=
  ∀ (s : State) (v : Byte), s.cursor = 8 →
    let b := s.buf.set 8 v
    let c := checksum s.cfg b
    rxStep v s =
      if c = v then { extract b { s with buf := b } with cursor := 0 }
      else { s with buf := b, cursor := 0, outputs := s.outputs ++ [.event (.badChecksum v c)] }

/-- What a byte leaves alone: every buffer byte but the one at the cursor, the configuration, `last_rx`, the ports'
queues; the byte itself is stored at the cursor, accepted or not, and the outputs only grow. -/
def Obligations.RxStepFrame : Prop :=
  ∀ (s : State) (v : Byte),
    let t := rxStep v s
    t.buf[s.cursor] = v ∧ (∀ j : Offset, j ≠ s.cursor → t.buf[j] = s.buf[j]) ∧
    t.cfg = s.cfg ∧ t.rxOnly = s.rxOnly ∧ t.lastRx = s.lastRx ∧ t.rx = s.rx ∧ t.inputs = s.inputs ∧
    ∃ new, t.outputs = s.outputs ++ new

/-- The cursor moves to the next offset or to 0; from 8 only to 0. -/
def Obligations.CursorAdvancesOrReturnsToZero : Prop :=
  ∀ (s : State) (v : Byte),
    ((rxStep v s).cursor.val = s.cursor.val + 1 ∨ (rxStep v s).cursor = 0) ∧ (s.cursor = 8 → (rxStep v s).cursor = 0)

/-- What one byte can put out: nothing; one event, and then the cursor is 0 and nothing but the stored byte changed;
StatusClear alone; or StatusClear and one Publish of a positive reading. The last two only on an accepted frame. -/
def Obligations.OutputsOfOneByte : Prop :=
  ∀ (s : State) (v : Byte),
    let t := rxStep v s
    let b := s.buf.set s.cursor v
    (t.outputs = s.outputs ∧ t.cursor.val = s.cursor.val + 1) ∨
    (∃ e, t = { s with buf := b, cursor := 0, outputs := s.outputs ++ [.event e] }) ∨
    (s.cursor = 8 ∧ checksum s.cfg b = v ∧ t.cursor = 0 ∧
      ((frameRaw b = 0 ∧ t.outputs = s.outputs ++ [.statusClear]) ∨
       (frameRaw b ≠ 0 ∧ t.outputs = s.outputs ++ [.statusClear, .publish (frameRaw b)])))

/-! ## The checksum -/

/-- R101's closed form: wrapping at every addition is summing in unbounded integers and reducing once. -/
def Obligations.ChecksumIsTheReducedSum : Prop :=
  ∀ (cfg : Config) (f : Frame), cfg.csumLast = .seven →
    (checksum cfg f).toNat =
      (256 - (f[1].toNat + f[2].toNat + f[3].toNat + f[4].toNat + f[5].toNat + f[6].toNat + f[7].toNat) % 256) % 256

/-- A frame passes the checksum test exactly when offsets 1 to 8 sum to 0 modulo 256 (offset 7 left out when
CSUM_LAST = 6). -/
def Obligations.ChecksumTestIsZeroSum : Prop :=
  ∀ (cfg : Config) (f : Frame),
    (checksumOk cfg f = true ↔
      (f[1].toNat + f[2].toNat + f[3].toNat + f[4].toNat + f[5].toNat + f[6].toNat +
        (if cfg.csumLast = .seven then f[7].toNat else 0) + f[8].toNat) % 256 = 0)

/-- Changing any single byte among offsets 1..8 of a valid frame makes it invalid (with CSUM_LAST = 6 offset 7 drops out
of the statement). -/
def Obligations.SingleByteErrorIsCaught : Prop :=
  ∀ (cfg : Config) (f : Frame) (i : Offset) (v : Byte), (cfg.csumLast = .six → i ≠ 7) → checksumOk cfg f = true →
    1 ≤ i.val → v ≠ f[i] → checksumOk cfg (f.set i v) = false

/-- R104: stamping does not disturb what is summed, so a stamped frame passes the test of R87. -/
def Obligations.StampThenCheckSucceeds : Prop :=
  ∀ (cfg : Config) (f : Frame),
    checksum cfg (f.set 8 (checksum cfg f)) = (f.set 8 (checksum cfg f))[8] ∧
    checksumOk cfg (f.set 8 (checksum cfg f)) = true

/-- The two readings of CSUM_LAST agree on a frame exactly when its offset 7 is zero. -/
def Obligations.ChecksumReadingsAgreeOnZeroReserved : Prop :=
  ∀ (cfg : Config) (f : Frame),
    (checksum { cfg with csumLast := .six } f = checksum { cfg with csumLast := .seven } f ↔ f[7] = 0)

/-- The checksum takes every value, 0x00 among them, on frames with any header and type; and on no frame does the header
enter. -/
def Obligations.ChecksumTakesEveryValue : Prop :=
  ∀ cfg : Config,
    (∀ header type c : Byte, ∃ f : Frame, f[0] = header ∧ f[1] = type ∧ checksum cfg f = c) ∧
    ∀ (f : Frame) (h : Byte), checksum cfg (f.set 0 h) = checksum cfg f

/-- R106 with R100: for every len from 2 to the length of the sequence the result is the negated sum of the bytes at
offsets 1 to len - 2, reduced once; at len = 2 that is 0x00; at 9 with CSUM_LAST = 7 the general function is the one FVCE
uses. That a call the spec leaves out, with len < 2 or with fewer bytes than len, answers no value is the model's choice
(log 21). -/
def Obligations.ChecksumAtEveryLength : Prop :=
  ∀ (cfg : Config) (f : Frame) (b : List Byte) (len : Nat),
    (2 ≤ len → len ≤ b.length → ∃ c, checksumLen b len = some c ∧
      c.toNat = (256 - (∑ i ∈ Finset.Icc 1 (len - 2), (b.getD i 0).toNat) % 256) % 256) ∧
    (2 ≤ b.length → checksumLen b 2 = some 0x00) ∧ (len < 2 ∨ b.length < len → checksumLen b len = none) ∧
    (cfg.csumLast = .seven → checksumLen f.toList 9 = some (checksum cfg f))

/-! ## The Concentration Extractor -/

/-- R44: the reading is big-endian within the frame, from offsets 4 and 5 of an answer frame and 2 and 3 of any other. -/
def Obligations.ReadingIsBigEndian : Prop :=
  ∀ f : Frame, frameRaw f = if f[1] = 0x86 then f[4] ++ f[5] else f[2] ++ f[3]

/-- R64: the reading as an unsigned integer, zero-extended and unscaled. -/
def Obligations.ReadingIsHighTimes256PlusLow : Prop :=
  ∀ hi lo : Byte, (rawOf hi lo).toNat = hi.toNat * 256 + lo.toNat ∧ (rawOf hi lo).toNat ≤ 65535

/-- R120: StatusClear always and first, then Publish if and only if the reading is positive; no FVCE state is written and
no event raised. -/
def Obligations.ExtractClearsThenPublishesPositive : Prop :=
  ∀ (f : Frame) (s : State),
    let hi : Byte := if f[1] = 0x86 then f[4] else f[2]
    let lo : Byte := if f[1] = 0x86 then f[5] else f[3]
    let raw : Raw := BitVec.ofNat 16 (hi.toNat * 256 + lo.toNat)
    extract f s =
      { s with outputs := s.outputs ++ [.statusClear] ++ if raw.toNat > 0 then [.publish raw] else [] }

/-- Bytes the extractor does not choose have no effect on any output, and the choice depends on the type byte alone. -/
def Obligations.UnchosenBytesHaveNoEffect : Prop :=
  ∀ (f g : Frame) (s : State), f[1] = g[1] → f[hiOffset f[1]] = g[hiOffset f[1]] →
    f[loOffset f[1]] = g[loOffset f[1]] → extract f s = extract g s

/-- R123: the published quantity is raw / 10, from 0.1 to 6553.5 ppm for every reading that is published. -/
def Obligations.PublishedValueRange : Prop :=
  ∀ (s : State) (v : Byte) (raw : Raw), (rxStep v s).outputs = s.outputs ++ [.statusClear, .publish raw] →
    ppm raw = (raw.toNat : ℚ) / 10 ∧ (1 : ℚ) / 10 ≤ ppm raw ∧ ppm raw ≤ 65535 / 10

/-! ## The Command Encoder: every command completes, from every state -/

/-- R112. -/
def Obligations.QueryWritesItsFrame : Prop :=
  ∀ s : State, exec .cmdQuery s = .next { s with outputs := s.outputs ++
    [.writeBytes #v[0xFF, 0x01, 0x86, 0x00, 0x00, 0x00, 0x00, 0x00, 0x79]] }

/-- R113. -/
def Obligations.SetUploadWritesItsFrame : Prop :=
  ∀ s : State, exec .cmdSetUpload s = .next { s with outputs := s.outputs ++
    [.writeBytes #v[0xFF, 0x01, 0x78, 0x40, 0x00, 0x00, 0x00, 0x00, 0x47]] }

/-- R114. -/
def Obligations.SetQaWritesItsFrame : Prop :=
  ∀ s : State, exec .cmdSetQa s = .next { s with outputs := s.outputs ++
    [.writeBytes #v[0xFF, 0x01, 0x78, 0x41, 0x00, 0x00, 0x00, 0x00, 0x46]] }

/-- R115, for every value of FALLBACK_OPCODE. -/
def Obligations.FallbackWritesItsFrame : Prop :=
  ∀ s : State, exec .cmdFallback s = .next { s with outputs := s.outputs ++
    [.writeBytes #v[0xFF, 0x01, s.cfg.fallbackOpcode, 0x00, 0x00, 0x00, 0x00, 0x00,
      neg8 (0x01 + s.cfg.fallbackOpcode)]] }

/-- The frame any selector builds is, byte for byte, the opcode table's row of the command it stands for; it has the
header, the marker and zeros at the reserved offsets, and passes the checksum test. -/
def Obligations.EveryCommandFrameIsItsTableRow : Prop :=
  ∀ (cfg : Config) (sel : Nat),
    let f := commandFrame cfg sel
    f.toList = encode cfg (selectorCommand sel) ∧ f[0] = 0xFF ∧ f[1] = 0x01 ∧
    f[4] = 0 ∧ f[5] = 0 ∧ f[6] = 0 ∧ f[7] = 0 ∧ checksumOk cfg f = true

/-! ## The inbound frames: every one completes, from every state -/

/-- From any cursor an inbound frame is nine byte steps, its header first. The spec gives the effect byte by byte; that a
frame as an instruction means its nine steps from whatever cursor is the model's reading (log 8). -/
def Obligations.InboundFrameIsNineSteps : Prop :=
  ∀ (s : State) (p : Payload) (type : Byte),
    let nine := fun t : Byte =>
      rxStep p.cs (rxStep p.r7 (rxStep p.p4 (rxStep p.p3 (rxStep p.p2 (rxStep p.p1 (rxStep p.p0 (rxStep t
        (rxStep 0xFF s))))))))
    exec (.inAnswer p) s = .next (nine 0x86) ∧
    exec (.inBroadcast p) s = .next (nine s.cfg.gasTypeCo) ∧
    exec (.inOther type p) s = .next (nine type)

/-- An answer frame at cursor 0 whose type is expected: all nine bytes stored, the cursor back at 0, and either the
reading at offsets 4, 5 handed over or EV_BAD_CHECKSUM. Nothing else changes. -/
def Obligations.ExpectedAnswerFrameResult : Prop :=
  ∀ (s : State) (p : Payload), s.cursor = 0 → typeOk s.cfg s.rxOnly 0x86 = true →
    let f : Frame := #v[0xFF, 0x86, p.p0, p.p1, p.p2, p.p3, p.p4, p.r7, p.cs]
    exec (.inAnswer p) s = .next { s with
      buf := f, cursor := 0
      outputs := s.outputs ++
        if p.cs = checksum s.cfg f then
          (if p.p2 ++ p.p3 = 0#16 then [.statusClear] else [.statusClear, .publish (p.p2 ++ p.p3)])
        else [.event (.badChecksum p.cs (checksum s.cfg f))] }

/-- A broadcast frame at cursor 0 whose type is expected: as above, with the reading at offsets 2, 3, or at 4, 5 if
GAS_TYPE_CO is 0x86. -/
def Obligations.ExpectedBroadcastFrameResult : Prop :=
  ∀ (s : State) (p : Payload), s.cursor = 0 → typeOk s.cfg s.rxOnly s.cfg.gasTypeCo = true →
    let f : Frame := #v[0xFF, s.cfg.gasTypeCo, p.p0, p.p1, p.p2, p.p3, p.p4, p.r7, p.cs]
    let raw : Raw := if s.cfg.gasTypeCo = 0x86 then p.p2 ++ p.p3 else p.p0 ++ p.p1
    exec (.inBroadcast p) s = .next { s with
      buf := f, cursor := 0
      outputs := s.outputs ++
        if p.cs = checksum s.cfg f then (if raw = 0 then [.statusClear] else [.statusClear, .publish raw])
        else [.event (.badChecksum p.cs (checksum s.cfg f))] }

/-- Any other frame at cursor 0 whose type the test lets pass (AS_BUILT): read like a broadcast frame. -/
def Obligations.PassingOtherFrameResult : Prop :=
  ∀ (s : State) (type : Byte) (p : Payload), s.cursor = 0 → typeOk s.cfg s.rxOnly type = true → type ≠ 0x86 →
    let f : Frame := #v[0xFF, type, p.p0, p.p1, p.p2, p.p3, p.p4, p.r7, p.cs]
    exec (.inOther type p) s = .next { s with
      buf := f, cursor := 0
      outputs := s.outputs ++
        if p.cs = checksum s.cfg f then
          (if p.p0 ++ p.p1 = 0#16 then [.statusClear] else [.statusClear, .publish (p.p0 ++ p.p1)])
        else [.event (.badChecksum p.cs (checksum s.cfg f))] }

/-- A frame at cursor 0 whose type is not expected: EV_BAD_TYPE at cursor 1, the rest scanned from cursor 0, and no sink
call in the whole frame. -/
def Obligations.UnexpectedTypeFramePublishesNothing : Prop :=
  ∀ (s : State) (i : Instr) (type : Byte) (p : Payload), s.cursor = 0 → typeOk s.cfg s.rxOnly type = false →
    (i = .inAnswer p ∧ type = 0x86 ∨ i = .inBroadcast p ∧ type = s.cfg.gasTypeCo ∨ i = .inOther type p) →
    ∃ t, exec i s = .next t ∧
      t = feed (payloadBytes p) { s with
        buf := (s.buf.set 0 0xFF).set 1 type, cursor := 0, outputs := s.outputs ++ [.event (.badType type)] } ∧
      sinkCalls t.outputs = sinkCalls s.outputs ∧ txStream t.outputs = txStream s.outputs

/-- Nine bytes from cursor 0 reach the extractor exactly when they are header, passing type and matching checksum; any
other nine bytes make no sink call at all. -/
def Obligations.NineBytesReachTheSinkIffValid : Prop :=
  ∀ (s : State) (f : Frame), s.cursor = 0 →
    sinkCalls (feed f.toList s).outputs = sinkCalls s.outputs ++
      if f[0] = 0xFF ∧ typeOk s.cfg s.rxOnly f[1] = true ∧ f[8] = checksum s.cfg f then extractOutputs f else []

/-- A stray header byte before a valid frame: the frame's own header is consumed as the type byte, and the frame makes no
sink call. -/
def Obligations.StrayHeaderLosesTheFrame : Prop :=
  ∀ (s : State) (f : Frame), s.cursor = 0 → typeOk s.cfg s.rxOnly 0xFF = false → f[0] = 0xFF →
    sinkCalls (feed (0xFF :: f.toList) s).outputs = sinkCalls s.outputs ∧
    ∃ more, (feed (0xFF :: f.toList) s).outputs = s.outputs ++ .event (.badType 0xFF) :: more

/-- The frame macros are accepted in their modes: ANSWER(raw) in Active mode and BROADCAST(raw) in PassiveListen mode
clear the status and publish raw, unless raw is 0. With GAS_TYPE_CO = 0x86 the broadcast is read at offsets 4 and 5, where
the macro has zeros, so nothing is published. -/
def Obligations.FrameMacrosPublishTheirReading : Prop :=
  ∀ (s : State) (raw : Raw), s.cursor = 0 → s.cfg.typeCheck = .intended →
    (s.rxOnly = false →
      (feed (answerMacro s.cfg raw).toList s).outputs =
        s.outputs ++ if raw = 0 then [.statusClear] else [.statusClear, .publish raw]) ∧
    (s.rxOnly = true →
      (feed (broadcastMacro s.cfg raw).toList s).outputs =
        s.outputs ++
          if raw = 0 ∨ s.cfg.gasTypeCo = 0x86 then [.statusClear] else [.statusClear, .publish raw])

/-! ## The host operations -/

/-- RESET sets the cursor and `last_rx` to 0 and leaves the receive queue and every output as they are (R130). That the
operation carries RX_ONLY, which the spec has the host fix before it (R27, R160), is the model's form (log 6). (The bytes it leaves in `buf` are the model's choice, log 5, and are not stated.) -/
def Obligations.ResetOperation : Prop :=
  ∀ (s : State) (b : Bool) (later : List Input), s.inputs = .op (.reset b) :: later →
    ∃ t, step s = .next t ∧ t.cursor = 0 ∧ t.lastRx = 0 ∧ t.rxOnly = b ∧ t.cfg = s.cfg ∧ t.rx = s.rx ∧
      t.outputs = s.outputs ∧ t.inputs = later

/-- R35 and R32, R34: the machine right after reset. -/
def Obligations.ResetState : Prop :=
  State.reset.cursor = 0 ∧ State.reset.lastRx = 0 ∧ State.reset.outputs = []

/-- R132: TICK(now, bytes) with an empty queue is idle; otherwise the staleness test and the timestamp once, then RxStep
for each byte in order, and the queue is empty. The bytes are what the transport held, then the arrivals. Time is counted
modulo 2^CLOCK_W, for every value of the parameter; with the spec's 32 this is the rule's own width. -/
def Obligations.TickStepsEveryByteInOrder : Prop :=
  ∀ (s : State) (now : Time) (arrivals : List Byte) (later : List Input),
    s.inputs = .op (.tick now arrivals) :: later →
    step s = .next (
      let bytes := s.rx ++ arrivals
      let gap := (now % 2 ^ s.cfg.clockW + 2 ^ s.cfg.clockW - s.lastRx % 2 ^ s.cfg.clockW) % 2 ^ s.cfg.clockW
      let s0 : State := { s with inputs := later, rx := [] }
      if bytes = [] then s0
      else if 0 < s.cursor.val ∧ 500 < gap then
        bytes.foldl (fun u v => rxStep v u)
          { s0 with cursor := 0, lastRx := now % 2 ^ s.cfg.clockW,
                    outputs := s.outputs ++ [.event (.stale s.cursor gap)] }
      else bytes.foldl (fun u v => rxStep v u) { s0 with lastRx := now % 2 ^ s.cfg.clockW })

/-- R133: the idle tick changes nothing and puts nothing out. -/
def Obligations.IdleTickChangesNothing : Prop :=
  ∀ (s : State) (now : Time) (later : List Input), s.inputs = .op (.tick now []) :: later → s.rx = [] →
    step s = .next { s with inputs := later }

/-- R134: the elapsed time is the difference of two unsigned CLOCK_W-bit counts, an integer reduced modulo 2^CLOCK_W (the
rule's 2^32 at the spec's value of the parameter); 500 does not discard, 501 does; with the cursor at 0 there is nothing to
discard. -/
def Obligations.StalenessThreshold : Prop :=
  ∀ (s : State) (now : Time),
    let gap : ℤ := ((now : ℤ) - s.lastRx) % 2 ^ s.cfg.clockW
    (isStale now s = true ↔ 0 < s.cursor.val ∧ 500 < gap) ∧
    tickStart now s =
      if 0 < s.cursor.val ∧ 501 ≤ gap then
        { s with cursor := 0, lastRx := now % 2 ^ s.cfg.clockW,
                 outputs := s.outputs ++ [.event (.stale s.cursor gap.toNat)] }
      else { s with lastRx := now % 2 ^ s.cfg.clockW }

/-- After a pause of more than 500 ms a tick that holds one whole valid frame decodes it, whatever partial frame was
pending and wherever it stopped. -/
def Obligations.FrameAfterLongPauseIsDecoded : Prop :=
  ∀ (s : State) (now : Time) (f : Frame) (later : List Input),
    s.inputs = .op (.tick now f.toList) :: later → s.rx = [] → 500 < elapsed now s →
    f[0] = 0xFF → typeOk s.cfg s.rxOnly f[1] = true → checksumOk s.cfg f = true →
    step s = .next { s with
      inputs := later, buf := f, cursor := 0, lastRx := now % 2 ^ s.cfg.clockW
      outputs := s.outputs ++ (if s.cursor = 0 then [] else [.event (.stale s.cursor (elapsed now s))]) ++
        extractOutputs f }

/-- Frame boundaries and tick boundaries are independent: bytes split over two ticks with bytes, less than 501 ms apart,
do what they do in one tick, but for `last_rx`. -/
def Obligations.SplitTicksAgreeWithOne : Prop :=
  ∀ (s : State) (t1 t2 : Time) (as bs : List Byte) (later : List Input), s.rx = [] → as ≠ [] → bs ≠ [] →
    subMod s.cfg.clockW t2 t1 ≤ 500 →
    ∃ u w, step { s with inputs := .op (.tick t1 as) :: .op (.tick t2 bs) :: later } = .next u ∧
      step u = .next w ∧
      step { s with inputs := .op (.tick t1 (as ++ bs)) :: later } = .next { w with lastRx := t1 % 2 ^ s.cfg.clockW }

/-- The host's start-up: in Active mode one mode-set command, SET_QA, is written after RESET; in PassiveListen mode none
is. That it is SET_QA is the spec's decision D14. -/
def Obligations.StartupWritesTheModeSetCommandInActiveOnly : Prop :=
  ∀ (s : State) (b : Bool), s.inputs = startup b →
    ∃ t, Host.Core.run Sys2Proof.core s.inputs.length s = .next t ∧ t.inputs = [] ∧ t.cursor = 0 ∧ t.rxOnly = b ∧
      txStream t.outputs = txStream s.outputs ++
        if b then [] else [0xFF, 0x01, 0x78, 0x41, 0x00, 0x00, 0x00, 0x00, 0x46]

/-! ## Rules about the whole machine -/

/-- Every step keeps each invariant: the bytes below the cursor are a header and a passing type (R89), and `last_rx` is a
count of CLOCK_W bits (R28). -/
def Obligations.StepKeepsInvariants : Prop :=
  ∀ s t : State, step s = .next t → (AttemptInv s → AttemptInv t) ∧ (ClockInv s → ClockInv t)

/-- The invariants hold right after reset. -/
def Obligations.ResetMeetsInvariants : Prop := AttemptInv State.reset ∧ ClockInv State.reset

/-- R24: no stale or unwritten buffer byte is ever read. States that differ only in buffer bytes at or above the cursor
have the same outcome of a step, but for such bytes. So the value the model gives `buf` at reset (log 5) is invisible. -/
def Obligations.StaleBufferBytesAreNeverRead : Prop :=
  ∀ s t : State, SameButStaleBytes s t → SameOutcomeButStaleBytes (step s) (step t)

/-- R27: no step writes the parameters, and only a RESET writes RX_ONLY. -/
def Obligations.ConfigurationIsFixedBetweenResets : Prop :=
  ∀ s t : State, step s = .next t →
    t.cfg = s.cfg ∧ (t.rxOnly = s.rxOnly ∨ ∃ b later, s.inputs = .op (.reset b) :: later ∧ t.rxOnly = b)

/-- `last_rx` is written by a TICK that finds bytes, with the tick's time, and by RESET; the cursor and the buffer by
those two operations alone. -/
def Obligations.WhoWritesTheRegisters : Prop :=
  ∀ s t : State, step s = .next t →
    (∃ now arrivals later, s.inputs = .op (.tick now arrivals) :: later ∧ s.rx ++ arrivals ≠ [] ∧
      t.lastRx = now % 2 ^ s.cfg.clockW) ∨
    (∃ b later, s.inputs = .op (.reset b) :: later ∧ t.lastRx = 0 ∧ t.cursor = 0) ∨
    (t.lastRx = s.lastRx ∧ t.cursor = s.cursor ∧ t.buf = s.buf)

/-- The output history only grows; TX is reached by SEND only, with one 9-byte frame each, and SINK and EVENT by TICK
only (R41): any other step puts nothing out. -/
def Obligations.PortsAreReachedByTheirOperationsOnly : Prop :=
  ∀ s t : State, step s = .next t →
    ∃ new, t.outputs = s.outputs ++ new ∧
      ((∃ sel later, s.inputs = .op (.send sel) :: later) ∧ (∃ f, new = [.writeBytes f]) ∨
       (∃ now arrivals later, s.inputs = .op (.tick now arrivals) :: later) ∧ (∀ f, .writeBytes f ∉ new) ∨
       (∀ sel later, s.inputs ≠ .op (.send sel) :: later) ∧
         (∀ now arrivals later, s.inputs ≠ .op (.tick now arrivals) :: later) ∧ new = [])

/-- A legal run never stops: no state of FVCE is fatal and no legal act is refused. -/
def Obligations.LegalRunsNeverStop : Prop :=
  ∀ (n : Nat) (s : State), legalInputs s.rxOnly s.inputs = true → RunsSafely n s

/-- What the spec refuses is refused: RX_ONLY driven to another value without RESET (U5) and operations that overlap
(U6). -/
def Obligations.MeaninglessActsAreRefused : Prop :=
  ∀ (s : State) (later : List Input),
    (s.inputs = .driveRxOnly (!s.rxOnly) :: later → step s = .refused .rxOnlyChangedWithoutReset) ∧
    (∀ a b, s.inputs = .overlap a b :: later → step s = .refused .operationsOverlap)

/-- The steps that are no operation of FVCE: received bytes join the back of the queue (R42, R51) and change nothing else;
a drive of RX_ONLY to the value it has changes nothing; and with no input left FVCE is idle with its state held (R136,
R158). That these are steps at all is the model's form (logs 7, 14, 17). -/
def Obligations.ArrivalsQueueAndIdleStepsHold : Prop :=
  ∀ (s : State) (later : List Input),
    (∀ bytes, s.inputs = .arrive bytes :: later → step s = .next { s with inputs := later, rx := s.rx ++ bytes }) ∧
    (s.inputs = .driveRxOnly s.rxOnly :: later → step s = .next { s with inputs := later }) ∧
    (s.inputs = [] → step s = .next s)
end

