-- ==== Sys2Proof/Laws/Checksum.lean ====
section
/-! SUPPORT. The checksum of a frame written out as its nine bytes, in both readings of CSUM_LAST, and the negation as
arithmetic. -/

namespace Sys2Proof.Machine

/-- A frame is its nine bytes. -/
theorem frame_eq_nine (f : Frame) : ∃ b0 b1 b2 b3 b4 b5 b6 b7 b8, f = #v[b0, b1, b2, b3, b4, b5, b6, b7, b8] := by
  rcases f with ⟨⟨l⟩, hl⟩
  match l, hl with
  | [b0, b1, b2, b3, b4, b5, b6, b7, b8], _ => exact ⟨b0, b1, b2, b3, b4, b5, b6, b7, b8, rfl⟩

/-- `neg_8` is negation modulo 256 (R101). -/
theorem neg8_eq_neg (v : Byte) : neg8 v = -v := by
  revert v; decide

theorem neg8_toNat (v : Byte) : (neg8 v).toNat = (256 - v.toNat) % 256 := by
  rw [neg8_eq_neg, BitVec.toNat_neg]

variable (cfg : Config) (b0 b1 b2 b3 b4 b5 b6 b7 b8 : Byte)

theorem checksum_nine_seven (h : cfg.csumLast = .seven) :
    checksum cfg #v[b0, b1, b2, b3, b4, b5, b6, b7, b8] = neg8 (b1 + b2 + b3 + b4 + b5 + b6 + b7) := by
  simp [checksum, h, CsumLast.toNat, sum8, Vector.toList]

theorem checksum_nine_six (h : cfg.csumLast = .six) :
    checksum cfg #v[b0, b1, b2, b3, b4, b5, b6, b7, b8] = neg8 (b1 + b2 + b3 + b4 + b5 + b6) := by
  simp [checksum, h, CsumLast.toNat, sum8, Vector.toList]

/-- Only offsets 1 to 7 are read (R100). -/
theorem checksum_congr (f g : Frame) (h : ∀ i : Offset, 1 ≤ i.val → i.val ≤ 7 → f[i] = g[i]) :
    checksum cfg f = checksum cfg g := by
  obtain ⟨x0, x1, x2, x3, x4, x5, x6, x7, x8, rfl⟩ := frame_eq_nine f
  obtain ⟨y0, y1, y2, y3, y4, y5, y6, y7, y8, rfl⟩ := frame_eq_nine g
  have e1 : x1 = y1 := h 1 (by decide) (by decide)
  have e2 : x2 = y2 := h 2 (by decide) (by decide)
  have e3 : x3 = y3 := h 3 (by decide) (by decide)
  have e4 : x4 = y4 := h 4 (by decide) (by decide)
  have e5 : x5 = y5 := h 5 (by decide) (by decide)
  have e6 : x6 = y6 := h 6 (by decide) (by decide)
  have e7 : x7 = y7 := h 7 (by decide) (by decide)
  subst e1 e2 e3 e4 e5 e6 e7
  rcases hc : cfg.csumLast with _ | _
  · rw [checksum_nine_six _ _ _ _ _ _ _ _ _ _ hc, checksum_nine_six _ _ _ _ _ _ _ _ _ _ hc]
  · rw [checksum_nine_seven _ _ _ _ _ _ _ _ _ _ hc, checksum_nine_seven _ _ _ _ _ _ _ _ _ _ hc]

/-- The running sum is the sum of the bytes reduced once (R101). -/
theorem sum8_toNat (l : List Byte) : (sum8 l).toNat = (l.map BitVec.toNat).sum % 256 := by
  suffices h : ∀ a : Byte, (l.foldl (· + ·) a).toNat = (a.toNat + (l.map BitVec.toNat).sum) % 256 by
    simpa [sum8] using h 0
  induction l with
  | nil => intro a; simp; omega
  | cons v l ih => intro a; simp [ih, BitVec.toNat_add]; omega

end Sys2Proof.Machine
end

