-- ==== Sys2Proof/Laws/State.lean ====
section
/-! SUPPORT. One lemma per field per named update of State, so that no later proof unfolds a record update. -/

namespace Sys2Proof.Machine

variable (s : State)

/-! ### bufWrite -/

@[simp] theorem bufWrite_cfg (i : Offset) (v : Byte) : (bufWrite i v s).cfg = s.cfg := rfl
@[simp] theorem bufWrite_rxOnly (i : Offset) (v : Byte) : (bufWrite i v s).rxOnly = s.rxOnly := rfl
@[simp] theorem bufWrite_buf (i : Offset) (v : Byte) : (bufWrite i v s).buf = s.buf.set i v := rfl
@[simp] theorem bufWrite_cursor (i : Offset) (v : Byte) : (bufWrite i v s).cursor = s.cursor := rfl
@[simp] theorem bufWrite_lastRx (i : Offset) (v : Byte) : (bufWrite i v s).lastRx = s.lastRx := rfl
@[simp] theorem bufWrite_rx (i : Offset) (v : Byte) : (bufWrite i v s).rx = s.rx := rfl
@[simp] theorem bufWrite_outputs (i : Offset) (v : Byte) : (bufWrite i v s).outputs = s.outputs := rfl
@[simp] theorem bufWrite_inputs (i : Offset) (v : Byte) : (bufWrite i v s).inputs = s.inputs := rfl

/-! ### setCursor -/

@[simp] theorem setCursor_cfg (k : Offset) : (setCursor k s).cfg = s.cfg := rfl
@[simp] theorem setCursor_rxOnly (k : Offset) : (setCursor k s).rxOnly = s.rxOnly := rfl
@[simp] theorem setCursor_buf (k : Offset) : (setCursor k s).buf = s.buf := rfl
@[simp] theorem setCursor_cursor (k : Offset) : (setCursor k s).cursor = k := rfl
@[simp] theorem setCursor_lastRx (k : Offset) : (setCursor k s).lastRx = s.lastRx := rfl
@[simp] theorem setCursor_rx (k : Offset) : (setCursor k s).rx = s.rx := rfl
@[simp] theorem setCursor_outputs (k : Offset) : (setCursor k s).outputs = s.outputs := rfl
@[simp] theorem setCursor_inputs (k : Offset) : (setCursor k s).inputs = s.inputs := rfl

/-! ### setLastRx -/

@[simp] theorem setLastRx_cfg (t : Time) : (setLastRx t s).cfg = s.cfg := rfl
@[simp] theorem setLastRx_rxOnly (t : Time) : (setLastRx t s).rxOnly = s.rxOnly := rfl
@[simp] theorem setLastRx_buf (t : Time) : (setLastRx t s).buf = s.buf := rfl
@[simp] theorem setLastRx_cursor (t : Time) : (setLastRx t s).cursor = s.cursor := rfl
@[simp] theorem setLastRx_lastRx (t : Time) : (setLastRx t s).lastRx = clockCount s.cfg t := rfl
@[simp] theorem setLastRx_rx (t : Time) : (setLastRx t s).rx = s.rx := rfl
@[simp] theorem setLastRx_outputs (t : Time) : (setLastRx t s).outputs = s.outputs := rfl
@[simp] theorem setLastRx_inputs (t : Time) : (setLastRx t s).inputs = s.inputs := rfl

/-! ### setRx -/

@[simp] theorem setRx_cfg (l : List Byte) : (setRx l s).cfg = s.cfg := rfl
@[simp] theorem setRx_rxOnly (l : List Byte) : (setRx l s).rxOnly = s.rxOnly := rfl
@[simp] theorem setRx_buf (l : List Byte) : (setRx l s).buf = s.buf := rfl
@[simp] theorem setRx_cursor (l : List Byte) : (setRx l s).cursor = s.cursor := rfl
@[simp] theorem setRx_lastRx (l : List Byte) : (setRx l s).lastRx = s.lastRx := rfl
@[simp] theorem setRx_rx (l : List Byte) : (setRx l s).rx = l := rfl
@[simp] theorem setRx_outputs (l : List Byte) : (setRx l s).outputs = s.outputs := rfl
@[simp] theorem setRx_inputs (l : List Byte) : (setRx l s).inputs = s.inputs := rfl

/-! ### setInputs -/

@[simp] theorem setInputs_cfg (l : List Input) : (setInputs l s).cfg = s.cfg := rfl
@[simp] theorem setInputs_rxOnly (l : List Input) : (setInputs l s).rxOnly = s.rxOnly := rfl
@[simp] theorem setInputs_buf (l : List Input) : (setInputs l s).buf = s.buf := rfl
@[simp] theorem setInputs_cursor (l : List Input) : (setInputs l s).cursor = s.cursor := rfl
@[simp] theorem setInputs_lastRx (l : List Input) : (setInputs l s).lastRx = s.lastRx := rfl
@[simp] theorem setInputs_rx (l : List Input) : (setInputs l s).rx = s.rx := rfl
@[simp] theorem setInputs_outputs (l : List Input) : (setInputs l s).outputs = s.outputs := rfl
@[simp] theorem setInputs_inputs (l : List Input) : (setInputs l s).inputs = l := rfl

/-! ### emit -/

@[simp] theorem emit_cfg (o : Output) : (emit o s).cfg = s.cfg := rfl
@[simp] theorem emit_rxOnly (o : Output) : (emit o s).rxOnly = s.rxOnly := rfl
@[simp] theorem emit_buf (o : Output) : (emit o s).buf = s.buf := rfl
@[simp] theorem emit_cursor (o : Output) : (emit o s).cursor = s.cursor := rfl
@[simp] theorem emit_lastRx (o : Output) : (emit o s).lastRx = s.lastRx := rfl
@[simp] theorem emit_rx (o : Output) : (emit o s).rx = s.rx := rfl
@[simp] theorem emit_outputs (o : Output) : (emit o s).outputs = s.outputs ++ [o] := rfl
@[simp] theorem emit_inputs (o : Output) : (emit o s).inputs = s.inputs := rfl

/-! ### reject -/

@[simp] theorem reject_cfg (e : Event) : (reject e s).cfg = s.cfg := rfl
@[simp] theorem reject_rxOnly (e : Event) : (reject e s).rxOnly = s.rxOnly := rfl
@[simp] theorem reject_buf (e : Event) : (reject e s).buf = s.buf := rfl
@[simp] theorem reject_cursor (e : Event) : (reject e s).cursor = 0 := rfl
@[simp] theorem reject_lastRx (e : Event) : (reject e s).lastRx = s.lastRx := rfl
@[simp] theorem reject_rx (e : Event) : (reject e s).rx = s.rx := rfl
@[simp] theorem reject_outputs (e : Event) : (reject e s).outputs = s.outputs ++ [.event e] := rfl
@[simp] theorem reject_inputs (e : Event) : (reject e s).inputs = s.inputs := rfl

/-! ### doReset -/

@[simp] theorem doReset_cfg (b : Bool) : (doReset b s).cfg = s.cfg := rfl
@[simp] theorem doReset_rxOnly (b : Bool) : (doReset b s).rxOnly = b := rfl
@[simp] theorem doReset_buf (b : Bool) : (doReset b s).buf = resetBuf := rfl
@[simp] theorem doReset_cursor (b : Bool) : (doReset b s).cursor = 0 := rfl
@[simp] theorem doReset_lastRx (b : Bool) : (doReset b s).lastRx = 0 := rfl
@[simp] theorem doReset_rx (b : Bool) : (doReset b s).rx = s.rx := rfl
@[simp] theorem doReset_outputs (b : Bool) : (doReset b s).outputs = s.outputs := rfl
@[simp] theorem doReset_inputs (b : Bool) : (doReset b s).inputs = s.inputs := rfl

end Sys2Proof.Machine
end

