-- ==== Sys2Proof/Laws/Decoder.lean ====
section
/-! SUPPORT. What one received byte, and a sequence of them, can do: `rxStep` is the pure function of R90 put into the
state, and everything it does not write is unchanged. -/

namespace Sys2Proof.Machine

variable (s : State)

/-- Extract appends its output acts and changes nothing else (R120). -/
theorem extract_eq (f : Frame) : extract f s = { s with outputs := s.outputs ++ extractOutputs f } := by
  unfold extract extractOutputs statusClear publish emit
  split <;> simp_all

/-! ### The pure function of R90, one lemma per row of R88 -/

variable (cfg : Config) (rxOnly : Bool) (buf : Frame)

theorem byteResult_header (v : Byte) : byteResult cfg rxOnly 0 buf v =
    if v = headerSentinel then ⟨1, buf.set 0 v, none, none, false⟩
    else ⟨0, buf.set 0 v, none, some (.badHeader v), false⟩ := rfl

theorem byteResult_type (v : Byte) : byteResult cfg rxOnly 1 buf v =
    if typeOk cfg rxOnly v then ⟨2, buf.set 1 v, none, none, false⟩
    else ⟨0, buf.set 1 v, none, some (.badType v), false⟩ := rfl

theorem byteResult_middle (k : Offset) (v : Byte) (h2 : 2 ≤ k.val) (h7 : k.val ≤ 7) :
    byteResult cfg rxOnly k buf v = ⟨k + 1, buf.set k v, none, none, false⟩ := by
  obtain ⟨n, hn⟩ := k
  match n, hn with
  | 0, _ | 1, _ | 8, _ => simp at h2 h7
  | 2, _ | 3, _ | 4, _ | 5, _ | 6, _ | 7, _ => rfl

theorem byteResult_checksum (v : Byte) : byteResult cfg rxOnly 8 buf v =
    if v = checksum cfg (buf.set 8 v) then ⟨0, buf.set 8 v, some (buf.set 8 v), none, true⟩
    else ⟨0, buf.set 8 v, none, some (.badChecksum v (checksum cfg (buf.set 8 v))), true⟩ := rfl

/-- The byte is stored at the cursor, whatever the test says (R80). -/
@[simp] theorem byteResult_buf (k : Offset) (v : Byte) : (byteResult cfg rxOnly k buf v).buf = buf.set k v := by
  obtain ⟨n, hn⟩ := k
  match n, hn with
  | 0, _ => exact (congrArg ByteResult.buf (byteResult_header cfg rxOnly buf v)).trans (by split <;> rfl)
  | 1, _ => exact (congrArg ByteResult.buf (byteResult_type cfg rxOnly buf v)).trans (by split <;> rfl)
  | 2, _ | 3, _ | 4, _ | 5, _ | 6, _ | 7, _ => rfl
  | 8, _ => exact (congrArg ByteResult.buf (byteResult_checksum cfg rxOnly buf v)).trans (by split <;> rfl)

/-- Every offset is the header's, the type's, one accepted unconditionally, or the checksum's. -/
theorem offset_cases (k : Offset) : k = 0 ∨ k = 1 ∨ (2 ≤ k.val ∧ k.val ≤ 7) ∨ k = 8 := by
  revert k; decide

/-- Below 8 the next offset is the successor. -/
theorem offset_succ_val (k : Offset) (h : k.val ≤ 7) : (k + 1).val = k.val + 1 := by
  revert k; decide

/-- The result of the byte `v` arriving at the state (R90). -/
abbrev resultOf (v : Byte) : ByteResult := byteResult s.cfg s.rxOnly s.cursor s.buf v

/-- What a result does to the state it came from. -/
def applyResult (r : ByteResult) : State :=
  { s with cursor := r.cursor, buf := r.buf, outputs := s.outputs ++ byteOutputs r }

theorem step0_eq (v : Byte) : step0 v s =
    if v = headerSentinel then setCursor 1 s else reject (.badHeader v) s := by
  simp only [step0, headerOk, beq_iff_eq]

/-- A step at cursor 8 whose byte is stored, as one case split on the checksum. -/
theorem step8_eq (v : Byte) (h : s.buf[8] = v) : step8 v s =
    if v = checksum s.cfg s.buf then { s with cursor := 0, outputs := s.outputs ++ extractOutputs s.buf }
    else reject (.badChecksum v (checksum s.cfg s.buf)) s := by
  simp only [step8, checksumOk, beq_iff_eq, h, extract_eq, eq_comm (a := v)]
  rfl

/-- Everything one received byte does: cursor and buffer by the transition table R88, and the output acts appended. -/
theorem rxStep_eq_byteResult (v : Byte) : rxStep v s = applyResult s (resultOf s v) := by
  obtain ⟨cfg, rxOnly, buf, ⟨k, hk⟩, lastRx, rx, outputs, inputs⟩ := s
  match k, hk with
  | 0, _ =>
    refine (step0_eq _ v).trans ?_
    change _ = applyResult _ (if v = headerSentinel then _ else _)
    split
    · exact congrArg (State.mk cfg rxOnly _ 1 lastRx rx · inputs) (List.append_nil outputs).symm
    · rfl
  | 1, _ =>
    change (if typeOk cfg rxOnly v = true then _ else _) = applyResult _ (if typeOk cfg rxOnly v = true then _ else _)
    split
    · exact congrArg (State.mk cfg rxOnly _ 2 lastRx rx · inputs) (List.append_nil outputs).symm
    · rfl
  | 2, _ | 3, _ | 4, _ | 5, _ | 6, _ | 7, _ =>
    exact congrArg (State.mk cfg rxOnly _ _ lastRx rx · inputs) (List.append_nil outputs).symm
  | 8, _ =>
    refine (step8_eq _ v (Vector.getElem_set_self _)).trans ?_
    change (if v = checksum cfg (buf.set 8 v) then _ else _) =
      applyResult _ (if v = checksum cfg (buf.set 8 v) then _ else _)
    split <;> rfl

@[simp] theorem rxStep_buf (v : Byte) : (rxStep v s).buf = s.buf.set s.cursor v := by
  rw [rxStep_eq_byteResult]; exact byteResult_buf ..
@[simp] theorem rxStep_cfg (v : Byte) : (rxStep v s).cfg = s.cfg := by
  rw [rxStep_eq_byteResult]; rfl
@[simp] theorem rxStep_rxOnly (v : Byte) : (rxStep v s).rxOnly = s.rxOnly := by
  rw [rxStep_eq_byteResult]; rfl
@[simp] theorem rxStep_lastRx (v : Byte) : (rxStep v s).lastRx = s.lastRx := by
  rw [rxStep_eq_byteResult]; rfl
@[simp] theorem rxStep_rx (v : Byte) : (rxStep v s).rx = s.rx := by
  rw [rxStep_eq_byteResult]; rfl
@[simp] theorem rxStep_inputs (v : Byte) : (rxStep v s).inputs = s.inputs := by
  rw [rxStep_eq_byteResult]; rfl

/-- A byte's effect does not depend on what else is queued. -/
theorem rxStep_setRx (v : Byte) (l : List Byte) : rxStep v (setRx l s) = setRx l (rxStep v s) := by
  rw [rxStep_eq_byteResult, rxStep_eq_byteResult]; rfl

@[simp] theorem feed_nil : feed [] s = s := rfl
@[simp] theorem feed_cons (v : Byte) (l : List Byte) : feed (v :: l) s = feed l (rxStep v s) := rfl

theorem feed_append (l m : List Byte) : feed (l ++ m) s = feed m (feed l s) := by
  simp [feed, List.foldl_append]

@[simp] theorem feed_cfg (l : List Byte) : (feed l s).cfg = s.cfg := by
  induction l generalizing s <;> simp_all

@[simp] theorem feed_rxOnly (l : List Byte) : (feed l s).rxOnly = s.rxOnly := by
  induction l generalizing s <;> simp_all

@[simp] theorem feed_lastRx (l : List Byte) : (feed l s).lastRx = s.lastRx := by
  induction l generalizing s <;> simp_all

@[simp] theorem feed_rx (l : List Byte) : (feed l s).rx = s.rx := by
  induction l generalizing s <;> simp_all

@[simp] theorem feed_inputs (l : List Byte) : (feed l s).inputs = s.inputs := by
  induction l generalizing s <;> simp_all

theorem feed_setRx (l m : List Byte) : feed l (setRx m s) = setRx m (feed l s) := by
  induction l generalizing s with
  | nil => rfl
  | cons v l ih => simp only [feed_cons, rxStep_setRx, ih]

/-- The timestamp and the environment's fields of a state, which no byte step reads or writes. -/
def withSurroundings (t : Time) (rx : List Byte) (inputs : List Input) : State :=
  { s with lastRx := t, rx := rx, inputs := inputs }

/-- Stepping bytes does not depend on the timestamp, the queue or the inputs to come. -/
theorem feed_withSurroundings (l : List Byte) (t : Time) (rx : List Byte) (inputs : List Input) :
    feed l (withSurroundings s t rx inputs) = withSurroundings (feed l s) t rx inputs := by
  induction l generalizing s with
  | nil => rfl
  | cons v l ih =>
    rw [feed_cons, feed_cons, ← ih]
    congr 1
    rw [rxStep_eq_byteResult, rxStep_eq_byteResult]; rfl

end Sys2Proof.Machine
end

