-- ==== Sys2Proof/Laws/Encoder.lean ====
section
/-! SUPPORT. The frame the encoder builds, written out, and what executing any command does. -/

namespace Sys2Proof.Machine

/-- The nine bytes of a command frame: the checksum covers the marker, the opcode and the sub-code, in either reading of
CSUM_LAST, because offsets 4 to 7 are zero (R105, R110). -/
theorem commandFrame_eq (cfg : Config) (sel : Nat) : commandFrame cfg sel =
    #v[0xFF, 0x01, (opSub cfg sel).1, (opSub cfg sel).2, 0x00, 0x00, 0x00, 0x00,
      neg8 (0x01 + (opSub cfg sel).1 + (opSub cfg sel).2)] := by
  unfold commandFrame checksum sum8
  rcases cfg with ⟨g, tc, cl, fo⟩
  cases cl <;> simp [CsumLast.toNat, Vector.set, Vector.toList]

/-- Executing the command of a selector is `Encode` of that selector (R111). -/
theorem exec_selectorCommand (sel : Nat) (s : State) : exec (selectorCommand sel) s = .next (encodeCommand sel s) := by
  match sel with
  | 0 | 1 | 2 => rfl
  | _ + 3 => rfl

end Sys2Proof.Machine
end

