-- ==== Sys2Proof/Laws/HostOps.lean ====
section
/-! SUPPORT. The drain of a TICK is `RxStep` per byte: running whole frames as instructions is the same as stepping their
bytes (R131, R132). -/

namespace Sys2Proof.Machine

variable (s : State)

/-- A decoded inbound frame is the front nine bytes, and executing it is stepping them. -/
theorem exec_of_decodeInbound {bytes rest : List Byte} {i : Instr}
    (h : decodeInbound s.cfg bytes = .ok (i, rest)) :
    ∃ front, front.length = 9 ∧ bytes = front ++ rest ∧ ∀ t : State, t.cfg = s.cfg → exec i t = .next (feed front t) := by
  unfold decodeInbound at h
  split at h
  · rename_i hd type p0 p1 p2 p3 p4 r7 cs rest'
    split at h
    · rename_i hh
      simp only [Except.ok.injEq, Prod.mk.injEq] at h
      obtain ⟨rfl, rfl⟩ := h
      refine ⟨[hd, type, p0, p1, p2, p3, p4, r7, cs], rfl, rfl, fun t ht => ?_⟩
      subst hh
      unfold inboundKind
      split
      · rename_i h1; subst h1; rfl
      · split
        · rename_i h2; subst h2; simp only [exec, execInBroadcast, ht]; rfl
        · rfl
    · cases h
  · cases h

theorem setRx_of_eq {l : List Byte} (h : s.rx = l) : setRx l s = s := by subst h; rfl

theorem setRx_setRx (l m : List Byte) : setRx l (setRx m s) = setRx l s := rfl

/-- The drain with enough fuel steps every queued byte in order and leaves the queue empty. -/
theorem drain_eq_feed (fuel : Nat) (hf : s.rx.length ≤ fuel) :
    drain fuel s = .next (feed s.rx (setRx [] s)) := by
  induction fuel generalizing s with
  | zero =>
    have hrx : s.rx = [] := List.length_eq_zero_iff.mp (Nat.le_zero.mp hf)
    rw [hrx, setRx_of_eq s hrx]; rfl
  | succ n ih =>
    rcases hrx : s.rx with _ | ⟨v, l⟩
    · rw [setRx_of_eq s hrx]
      simp only [drain, readByte, hrx, feed_nil]
    · have hl : l.length ≤ n := by simpa [hrx] using hf
      simp only [drain, readByte, hrx]
      split
      · rename_i i rest hd
        obtain ⟨front, hlen, happ, hex⟩ := exec_of_decodeInbound s hd
        have hr : rest.length ≤ n := by
          have := congrArg List.length happ
          simp at this; omega
        rw [hex _ (setRx_cfg s rest), andThen, ih _ (by simpa using hr), happ, feed_append, feed_rx, setRx_rx,
          ← feed_setRx, setRx_setRx]
      · rw [ih _ (by simpa using hl), rxStep_setRx, setRx_rx, setRx_setRx, feed_cons, rxStep_setRx]

/-! ## Time modulo 2^CLOCK_W -/

/-- A count in the clock's range is shown as it is. -/
theorem clockCount_of_lt {cfg : Config} {t : Time} (h : t < 2 ^ cfg.clockW) : clockCount cfg t = t := Nat.mod_eq_of_lt h

/-- The count the clock shows is in its range. -/
theorem clockCount_lt (cfg : Config) (t : Time) : clockCount cfg t < 2 ^ cfg.clockW :=
  Nat.mod_lt _ (Nat.two_pow_pos _)

/-- No time has elapsed since the same count. -/
@[simp] theorem subMod_self (w : Nat) (a : Time) : subMod w a a = 0 := by simp [subMod]

/-- A difference modulo 2^W depends on the low W bits of its operands alone. -/
theorem subMod_clockCount (cfg : Config) (a b : Time) : subMod cfg.clockW a (clockCount cfg b) = subMod cfg.clockW a b := by
  simp [subMod, clockCount]

/-- The same in natural numbers. -/
theorem subMod_eq (w : Nat) (a b : Time) : subMod w a b = (a % 2 ^ w + 2 ^ w - b % 2 ^ w) % 2 ^ w := by
  have hb : b % 2 ^ w ≤ a % 2 ^ w + 2 ^ w := (Nat.mod_lt b (Nat.two_pow_pos w)).le.trans (Nat.le_add_left _ _)
  have h : (((a % 2 ^ w + 2 ^ w - b % 2 ^ w : Nat) : Int)) % ((2 ^ w : Nat) : Int) = ((a : Int) - b) % ((2 ^ w : Nat) : Int) := by
    rw [Nat.cast_sub hb, Nat.cast_add, Int.natCast_mod, Int.natCast_mod, Int.sub_emod, Int.add_emod_right]
    simp
  rw [subMod, ← h, ← Int.natCast_mod, Int.toNat_natCast]

/-- What the start of a tick does: the discard of a stale attempt, or nothing but the timestamp. -/
theorem tickStart_eq (now : Time) :
    tickStart now s = if isStale now s then setLastRx now (reject (.stale s.cursor (elapsed now s)) s)
      else setLastRx now s := by
  unfold tickStart discardStale; split <;> rfl

/-- The staleness test as a condition on numbers (R134). -/
theorem isStale_iff (now : Time) :
    isStale now s = true ↔ 0 < s.cursor.val ∧ 500 < elapsed now s := by
  unfold isStale
  rw [Bool.and_eq_true, decide_eq_true_iff, decide_eq_true_iff]
  exact Iff.rfl

@[simp] theorem tickStart_cfg (now : Time) : (tickStart now s).cfg = s.cfg := by
  rw [tickStart_eq]; split <;> rfl
@[simp] theorem tickStart_rxOnly (now : Time) : (tickStart now s).rxOnly = s.rxOnly := by
  rw [tickStart_eq]; split <;> rfl
@[simp] theorem tickStart_buf (now : Time) : (tickStart now s).buf = s.buf := by
  rw [tickStart_eq]; split <;> rfl
@[simp] theorem tickStart_lastRx (now : Time) : (tickStart now s).lastRx = clockCount s.cfg now := by
  rw [tickStart_eq]; split <;> rfl
@[simp] theorem tickStart_rx (now : Time) : (tickStart now s).rx = s.rx := by
  rw [tickStart_eq]; split <;> rfl
@[simp] theorem tickStart_inputs (now : Time) : (tickStart now s).inputs = s.inputs := by
  rw [tickStart_eq]; split <;> rfl

/-- The start of a tick does not depend on what is queued. -/
theorem tickStart_setRx (now : Time) (l : List Byte) : tickStart now (setRx l s) = setRx l (tickStart now s) := by
  rw [tickStart_eq, tickStart_eq, show isStale now (setRx l s) = isStale now s from rfl]
  split <;> rfl

/-- The bytes a tick does not idle on: the staleness test and the timestamp, then every queued byte. -/
theorem doTick_eq (now : Time) :
    doTick now s = .next (if s.rx = [] then s else feed s.rx (setRx [] (tickStart now s))) := by
  unfold doTick avail
  by_cases h : s.rx = []
  · simp [h]
  · simp only [h, List.length_eq_zero_iff, if_false]
    rw [drain_eq_feed _ _ (Nat.le_refl _), tickStart_rx]

end Sys2Proof.Machine
end

