-- ==== Sys2Proof/Laws/PerInstr.lean ====
section
/-! SUPPORT. Per instruction: every encoding is nine bytes with the header sentinel first (R60, R61, R63). -/

namespace Sys2Proof.Laws.NineBytesHeaderFirst

/-- The instruction's words are one frame, whatever the configuration. -/
def Statement (i : Instr) : Prop :=
  ∀ cfg : Config, (encode cfg i).length = 9 ∧ (encode cfg i).head? = some headerSentinel

theorem inAnswer (p : Payload) : Statement (.inAnswer p) := fun _ => ⟨rfl, rfl⟩
theorem inBroadcast (p : Payload) : Statement (.inBroadcast p) := fun _ => ⟨rfl, rfl⟩
theorem inOther (type : Byte) (p : Payload) : Statement (.inOther type p) := fun _ => ⟨rfl, rfl⟩
theorem cmdQuery : Statement .cmdQuery := fun _ => ⟨rfl, rfl⟩
theorem cmdSetUpload : Statement .cmdSetUpload := fun _ => ⟨rfl, rfl⟩
theorem cmdSetQa : Statement .cmdSetQa := fun _ => ⟨rfl, rfl⟩
theorem cmdFallback : Statement .cmdFallback := fun _ => ⟨rfl, rfl⟩

end Sys2Proof.Laws.NineBytesHeaderFirst
end

