-- ==== Sys2Proof/Laws/Step.lean ====
section
/-! SUPPORT. Everything a step can do, said once. -/

namespace Sys2Proof.Machine

/-- A step that answers a next state took one of six things the outside can do, and this is what it did. -/
theorem step_cases {s t : State} (h : step s = .next t) :
    (s.inputs = [] ∧ t = s) ∨
    (∃ b later, s.inputs = .op (.reset b) :: later ∧ t = doReset b (setInputs later s)) ∨
    (∃ now arrivals later, s.inputs = .op (.tick now arrivals) :: later ∧
      doTick now (setRx (s.rx ++ arrivals) (setInputs later s)) = .next t) ∨
    (∃ sel later, s.inputs = .op (.send sel) :: later ∧ t = encodeCommand sel (setInputs later s)) ∨
    (∃ bytes later, s.inputs = .arrive bytes :: later ∧ t = setRx (s.rx ++ bytes) (setInputs later s)) ∨
    (∃ later, s.inputs = .driveRxOnly s.rxOnly :: later ∧ t = setInputs later s) := by
  rcases hi : s.inputs with _ | ⟨x, later⟩
  · left
    simp only [step, takeInput, hi] at h
    cases h; exact ⟨rfl, rfl⟩
  · right
    simp only [step, takeInput, hi] at h
    rcases x with (⟨b⟩ | ⟨now, arrivals⟩ | ⟨sel⟩) | ⟨bytes⟩ | ⟨b⟩ | ⟨a, b⟩
    · left; cases h; exact ⟨_, _, rfl, rfl⟩
    · right; left; exact ⟨_, _, _, rfl, h⟩
    · right; right; left
      have hs : exec (selectorCommand sel) (setInputs later s) = .next t := h
      rw [exec_selectorCommand] at hs
      cases hs; exact ⟨_, _, rfl, rfl⟩
    · right; right; right; left; cases h; exact ⟨_, _, rfl, rfl⟩
    · right; right; right; right
      simp only [doInput] at h
      split at h
      · rename_i hb
        cases h; rw [hb]; exact ⟨_, rfl, rfl⟩
      · cases h
    · cases h

/-- One step of a run. -/
theorem run_succ {n : Nat} {s t : State} (h : step s = .next t) :
    Host.Core.run Sys2Proof.core (n + 1) s = Host.Core.run Sys2Proof.core n t := by
  have h' : Sys2Proof.core.step s = .next t := h
  simp only [Host.Core.run, h']

end Sys2Proof.Machine
end

