-- ==== Sys2Proof/Tests/Slice0.lean ====
section
/-! SUPPORT. The model's own tests: the expected values are the vectors of spec/95_test_vectors.md and the tables of R67 and
R126, named where they are used; and one witness per statement that has hypotheses. GAS_TYPE_CO = 0x04 below is the
vectors' example value. -/

open Sys2Proof Sys2Proof.Machine

namespace Sys2Proof.Tests

/-! ## Helpers -/

/-- A machine right after reset, with every parameter a numeral. -/
def machine (check : TypeCheck) (last : CsumLast) (gas fallback : Byte) (rxOnly : Bool) : State :=
  { State.reset with cfg := ⟨gas, check, last, fallback, 32⟩, rxOnly := rxOnly }

/-- Active mode with the spec's parameter values. -/
def active : State := machine .intended .seven 0x04 0x00 false
/-- PassiveListen mode with the spec's parameter values. -/
def passive : State := machine .intended .seven 0x04 0x00 true
/-- Active mode with the as-built type test. -/
def asBuilt : State := machine .asBuilt .seven 0x04 0x00 false

/-- A machine in the middle of a frame attempt. -/
def at_ (k : Offset) (buf : Frame) (s : State) : State := { s with cursor := k, buf := buf }

/-- The state a step answers, if it answers one. -/
def next? : Host.Outcome State Fault Refusal → Option State
  | .next s => some s
  | .fault _ => none
  | .refused _ => none

/-- The state after the listed inputs. -/
def afterAll (l : List Input) (s : State) : Option State :=
  next? (Host.Core.run Sys2Proof.core l.length { s with inputs := l })

/-- What the inputs put out, and the cursor and `last_rx` they leave. -/
def ending (l : List Input) (s : State) : Option (List Output × Offset × Time) :=
  (afterAll l s).map fun t => (t.outputs, t.cursor, t.lastRx)

/-- The 30.0 ppm answer frame of S3. -/
def thirtyPpm : Frame := #v[0xFF, 0x86, 0x00, 0x00, 0x01, 0x2C, 0x00, 0x00, 0x4D]
/-- Its fields after the type. -/
def thirtyFields : Payload := ⟨0x00, 0x00, 0x01, 0x2C, 0x00, 0x00, 0x4D⟩
/-- The broadcast frame of R126's row 7. -/
def broadcastFields : Payload := ⟨0x12, 0x34, 0x56, 0x78, 0x9A, 0xBC, 0x92⟩
/-- The as-built frame of T-EX-10. -/
def otherFields : Payload := ⟨0x00, 0x64, 0x00, 0x00, 0x00, 0x00, 0x85⟩

/-! ## WellFormed refuses each ill-formed term -/

theorem test_wf_refuses_other_with_answer_type (p : Payload) : (Instr.inOther 0x86 p).wellFormed active.cfg = false := rfl
theorem test_wf_refuses_other_with_gas_type (p : Payload) : (Instr.inOther 0x04 p).wellFormed active.cfg = false := rfl
theorem test_wf_refuses_broadcast_of_answer_type (p : Payload) :
    (Instr.inBroadcast p).wellFormed ⟨0x86, .intended, .seven, 0x00, 32⟩ = false := rfl
theorem test_wf_refuses_fallback_of_query_opcode :
    Instr.cmdFallback.wellFormed ⟨0x04, .intended, .seven, 0x86, 32⟩ = false := rfl
theorem test_wf_accepts_each_kind (p : Payload) :
    [Instr.inAnswer p, .inBroadcast p, .inOther 0x17 p, .cmdQuery, .cmdSetUpload, .cmdSetQa, .cmdFallback].all
      (·.wellFormed active.cfg) = true := rfl

/-! ## Words written out from the encodings of R61, R63, R67 and the opcode table -/

theorem test_word_in_answer : decodeTableWord 72 0xFF860000012C00004D = some (.inAnswer thirtyFields) := by decide
theorem test_word_cmd_query : decodeTableWord 72 0xFF0186000000000079 = some .cmdQuery := by decide
theorem test_word_cmd_set_upload : decodeTableWord 72 0xFF0178400000000047 = some .cmdSetUpload := by decide
theorem test_word_cmd_set_qa : decodeTableWord 72 0xFF0178410000000046 = some .cmdSetQa := by decide
theorem test_word_cmd_fallback : decodeTableWord 72 0xFF01000000000000FF = some .cmdFallback := by decide
/-- The table's `match_example`, with the type byte and the fields of R126's row 7. -/
theorem test_word_in_broadcast :
    decodeInbound active.cfg (tableBytes 72 0xFF04123456789ABC92) = .ok (.inBroadcast broadcastFields, []) := rfl
theorem test_word_in_other :
    decodeInbound active.cfg (tableBytes 72 0xFF1700640000000085) = .ok (.inOther 0x17 otherFields, []) := rfl
/-- The same word without its header, a command with a set reserved byte, and one with another checksum are refused by
name (R61, R63). -/
theorem test_words_refused :
    decodeInbound active.cfg (tableBytes 72 0xFE860000012C00004D) = .error .badHeader ∧
    decodeInbound active.cfg [0xFF, 0x86] = .error .truncated ∧
    decodeOutbound active.cfg (tableBytes 72 0xFF0286000000000079) = .error .badMarker ∧
    decodeOutbound active.cfg (tableBytes 72 0xFF0186000000000178) = .error .reservedNotZero ∧
    decodeOutbound active.cfg (tableBytes 72 0xFF0186000000000078) = .error .badCommandChecksum ∧
    decodeOutbound active.cfg (tableBytes 72 0xFF0178420000000045) = .error .unknownCommand :=
  ⟨rfl, rfl, rfl, rfl, rfl, rfl⟩

/-! ## The checksum: T-CS-1 to T-CS-14 -/

/-- Both readings of a frame's checksum. -/
def both (f : Frame) : Byte × Byte :=
  (checksum ⟨0x04, .intended, .seven, 0x00, 32⟩ f, checksum ⟨0x04, .intended, .six, 0x00, 32⟩ f)

theorem test_checksum_wraps :
    both #v[0xFF, 0x86, 0x7A, 0x00, 0x00, 0x00, 0x00, 0x00, 0x00] = (0x00, 0x00) ∧
    both #v[0xFF, 0xFF, 0xFF, 0xFF, 0xFF, 0xFF, 0xFF, 0xFF, 0x00] = (0x07, 0x06) ∧
    both #v[0xFF, 0x80, 0x00, 0x00, 0x00, 0x00, 0x00, 0x00, 0x00] = (0x80, 0x80) ∧
    both #v[0xFF, 0x80, 0x80, 0x00, 0x00, 0x00, 0x00, 0x00, 0x00] = (0x00, 0x00) := by decide
theorem test_checksum_range :
    both #v[0xFF, 0x86, 0x12, 0x34, 0x56, 0x78, 0x9A, 0xBC, 0x00] = (0x10, 0xCC) ∧
    both #v[0xFF, 0x86, 0x00, 0x00, 0x01, 0x2C, 0x00, 0x10, 0x00] = (0x3D, 0x4D) ∧
    both #v[0xFF, 0x04, 0x03, 0x01, 0x00, 0x25, 0x13, 0x88, 0x00] = (0x38, 0xC0) ∧
    both #v[0x00, 0x86, 0x00, 0x00, 0x01, 0x2C, 0x00, 0x00, 0xAA] = (0x4D, 0x4D) := by decide

/-! ## The type test: T-TY-1 to T-TY-14 -/

theorem test_type_intended :
    typeOk active.cfg false 0x86 = true ∧ typeOk active.cfg false 0x04 = false ∧ typeOk active.cfg false 0xFF = false ∧
    typeOk active.cfg false 0x01 = false ∧ typeOk active.cfg true 0x04 = true ∧ typeOk active.cfg true 0x86 = false := by
  decide
theorem test_type_as_built :
    ([0x86, 0x04, 0x00, 0x01, 0xFF, 0x17].all fun v : Byte =>
      typeOk asBuilt.cfg false v && typeOk asBuilt.cfg true v) = true ∧
    (let zero : Config := ⟨0x00, .asBuilt, .seven, 0x00, 32⟩
     typeOk zero false 0x00 = false ∧ typeOk zero false 0x01 = true ∧ typeOk zero true 0x01 = false ∧
       typeOk zero true 0x00 = true) := by decide

/-! ## One byte: T-HD, T-PL, T-C8 -/

theorem test_header_byte :
    rxStep 0xFF active = at_ 1 (active.buf.set 0 0xFF) active ∧
    rxStep 0xFE active = { at_ 0 (active.buf.set 0 0xFE) active with outputs := [.event (.badHeader 0xFE)] } := by decide
theorem test_payload_ff_does_not_restart :
    rxStep 0xFF (at_ 3 thirtyPpm active) = at_ 4 (thirtyPpm.set 3 0xFF) active ∧
    rxStep 0x10 (at_ 7 thirtyPpm active) = at_ 8 (thirtyPpm.set 7 0x10) active := by decide
theorem test_checksum_byte :
    rxStep 0x4D (at_ 8 thirtyPpm active) =
      { at_ 0 thirtyPpm active with outputs := [.statusClear, .publish 300] } ∧
    rxStep 0xFF (at_ 8 thirtyPpm active) =
      { at_ 0 (thirtyPpm.set 8 0xFF) active with outputs := [.event (.badChecksum 0xFF 0x4D)] } := by decide

/-! ## Each instruction: R126, T-EX, T-EN -/

theorem test_in_answer :
    (next? (exec (.inAnswer thirtyFields) active)).map (fun t => (t.outputs, t.cursor)) =
      some ([.statusClear, .publish 300], 0) := by decide
theorem test_in_answer_zero :
    (next? (exec (.inAnswer ⟨0x00, 0x00, 0x00, 0x00, 0x00, 0x00, 0x7A⟩) active)).map State.outputs =
      some [.statusClear] := by decide
theorem test_in_broadcast :
    (next? (exec (.inBroadcast broadcastFields) passive)).map State.outputs = some [.statusClear, .publish 4660] := by
  decide
/-- T-RS-2: a broadcast frame in Active mode. -/
theorem test_in_broadcast_in_active_mode :
    (next? (exec (.inBroadcast ⟨0x01, 0x2C, 0x00, 0x00, 0x00, 0x00, 0xCF⟩) active)).map State.outputs =
      some ([.badType 0x04, .badHeader 0x01, .badHeader 0x2C, .badHeader 0x00, .badHeader 0x00, .badHeader 0x00,
        .badHeader 0x00, .badHeader 0xCF].map Output.event) := by decide
theorem test_in_other_as_built :
    (next? (exec (.inOther 0x17 otherFields) asBuilt)).map State.outputs = some [.statusClear, .publish 100] := by decide
theorem test_in_other_intended :
    ((next? (exec (.inOther 0x17 otherFields) active)).map fun t => sinkCalls t.outputs) = some [] := by decide
theorem test_cmd_query :
    next? (exec .cmdQuery (at_ 5 thirtyPpm active)) =
      some { at_ 5 thirtyPpm active with
        outputs := [.writeBytes #v[0xFF, 0x01, 0x86, 0x00, 0x00, 0x00, 0x00, 0x00, 0x79]] } := by decide
theorem test_cmd_set_upload :
    (next? (exec .cmdSetUpload active)).map (txStream ·.outputs) =
      some [0xFF, 0x01, 0x78, 0x40, 0x00, 0x00, 0x00, 0x00, 0x47] := by decide
theorem test_cmd_set_qa :
    (next? (exec .cmdSetQa active)).map (txStream ·.outputs) =
      some [0xFF, 0x01, 0x78, 0x41, 0x00, 0x00, 0x00, 0x00, 0x46] := by decide
theorem test_cmd_fallback :
    (next? (exec .cmdFallback active)).map (txStream ·.outputs) =
      some [0xFF, 0x01, 0x00, 0x00, 0x00, 0x00, 0x00, 0x00, 0xFF] := by decide
theorem test_cmd_fallback_other_opcode :
    (next? (exec .cmdFallback (machine .intended .seven 0x04 0x78 false))).map (txStream ·.outputs) =
      some [0xFF, 0x01, 0x78, 0x00, 0x00, 0x00, 0x00, 0x00, 0x87] := by decide

/-! ## Host operations: T-ST, T-RS, P1 -/

/-- T-ST-1 and T-ST-2: 500 ms do not discard, 501 do. -/
theorem test_stale_boundary :
    ending [.op (.tick 100 [0xFF, 0x86, 0x00, 0x00]), .op (.tick 600 [0x01, 0x2C, 0x00, 0x00, 0x4D])] active =
      some ([.statusClear, .publish 300], 0, 600) ∧
    ending [.op (.tick 100 [0xFF, 0x86, 0x00, 0x00]), .op (.tick 601 [0x01, 0x2C])] active =
      some ([.event (.stale 4 501), .event (.badHeader 0x01), .event (.badHeader 0x2C)], 0, 601) := by decide
/-- T-ST-8: the clock wraps. T-ST-3: the idle tick. -/
theorem test_clock_wraps_and_idle_tick :
    ending [.op (.tick 4294967040 [0xFF, 0x86, 0x00]), .op (.tick 243 [0x00, 0x01, 0x2C, 0x00, 0x00, 0x4D])] active =
      some ([.statusClear, .publish 300], 0, 243) ∧
    ending [.op (.tick 100 [0xFF, 0x86, 0x00, 0x00]), .op (.tick 5000 [])] active = some ([], 4, 100) := by decide
/-- With CLOCK_W = 16 the clock wraps at 65536: (100 - 65500) mod 65536 = 136, by hand from R7 and R134. -/
theorem test_sixteen_bit_clock :
    ending [.op (.tick 65500 [0xFF, 0x86, 0x00]), .op (.tick 65636 [0x00])]
      { active with cfg := { active.cfg with clockW := 16 } } = some ([], 4, 100) := by decide
/-- T-RS-3: the valid frame is lost. -/
theorem test_stray_header :
    ending [.op (.tick 1 (0xFF :: thirtyPpm.toList))] active =
      some (([.badType 0xFF, .badHeader 0x86, .badHeader 0x00, .badHeader 0x00, .badHeader 0x01, .badHeader 0x2C,
        .badHeader 0x00, .badHeader 0x00, .badHeader 0x4D].map Output.event), 0, 1) := by decide
/-- P1. -/
theorem test_program_p1 :
    ending [.op (.reset false), .op (.send 2), .op (.send 0), .op (.tick 1000 thirtyPpm.toList)] active =
      some ([.writeBytes #v[0xFF, 0x01, 0x78, 0x41, 0x00, 0x00, 0x00, 0x00, 0x46],
        .writeBytes #v[0xFF, 0x01, 0x86, 0x00, 0x00, 0x00, 0x00, 0x00, 0x79], .statusClear, .publish 300], 0, 1000) := by
  decide
/-- Bytes that arrive between ticks wait for the next one (R51); RESET does not empty the queue (R130). -/
theorem test_queue_survives_reset :
    ending [.arrive thirtyPpm.toList, .op (.reset false), .op (.tick 7 [])] active =
      some ([.statusClear, .publish 300], 0, 7) := by decide
/-- The placed word is what the next step runs, right after reset. -/
theorem test_placed_words_run :
    (next? (step (State.reset.withFetchWord 72 0xFF860000012C00004D))).map State.outputs =
      some [.statusClear, .publish 300] ∧
    (next? (step (State.reset.withFetchWord 72 0xFF0178410000000046))).map (txStream ·.outputs) =
      some [0xFF, 0x01, 0x78, 0x41, 0x00, 0x00, 0x00, 0x00, 0x46] := by decide
/-- The codes and severities of R141. -/
theorem test_event_records :
    [Event.badHeader 0, .badType 0, .badChecksum 0 0, .stale 0 0].map (fun e => (eventCode e, eventSeverity e)) =
      [(1, .logOnly), (2, .logOnly), (3, .warning), (4, .trace)] := by decide

/-! ## Witnesses: a state and operands that meet a statement's hypotheses -/

/-- A state with inputs to take. -/
def asked (l : List Input) (s : State) : State := { s with inputs := l }

theorem witness_TickStepRunsTheDecodedFrame :
    (asked [.op (.tick 10 thirtyPpm.toList)] active).inputs = .op (.tick 10 thirtyPpm.toList) :: [] ∧
    decodeInbound active.cfg (active.rx ++ thirtyPpm.toList) = .ok (.inAnswer thirtyFields, []) := ⟨rfl, rfl⟩
theorem witness_SendStepRunsTheSelectedCommand :
    ∀ sel ∈ [0, 1, 2, 3, 7], (asked [.op (.send sel)] active).inputs = .op (.send sel) :: [] := fun _ _ => rfl
theorem witness_PlacedWord_command :
    decodeOutbound active.cfg (tableBytes 72 0xFF0186000000000079) = .ok (.cmdQuery, []) := rfl
theorem witness_PlacedWord_inbound :
    active.lastRx < 2 ^ active.cfg.clockW ∧
    (∀ r, decodeOutbound active.cfg (tableBytes 72 0xFF860000012C00004D) ≠ .ok r) ∧
    decodeInbound active.cfg (tableBytes 72 0xFF860000012C00004D) = .ok (.inAnswer thirtyFields, []) :=
  ⟨by decide, fun _ h => (by cases h), rfl⟩
theorem witness_InboundDecodeOfEncode (p : Payload) :
    ∀ i ∈ [Instr.inAnswer p, .inBroadcast p, .inOther 0x00 p, .inOther 0xFF p],
      i.WellFormed active.cfg ∧ i.direction = .inbound := by
  intro i hi; fin_cases hi <;> exact ⟨rfl, rfl⟩
theorem witness_OutboundDecodeOfEncode :
    ∀ i ∈ [Instr.cmdQuery, .cmdSetUpload, .cmdSetQa, .cmdFallback],
      i.WellFormed active.cfg ∧ i.direction = .outbound := by decide
theorem witness_EncodeOfDecodeBothStreams :
    decodeInbound active.cfg (thirtyPpm.toList ++ [0x12]) = .ok (.inAnswer thirtyFields, [0x12]) ∧
    decodeOutbound active.cfg [0xFF, 0x01, 0x00, 0x00, 0x00, 0x00, 0x00, 0x00, 0xFF] = .ok (.cmdFallback, []) :=
  ⟨rfl, rfl⟩
theorem witness_AliasedRowsShareTheirWords :
    (⟨0x86, .intended, .seven, 0x86, 32⟩ : Config).gasTypeCo = 0x86 ∧
    (⟨0x86, .intended, .seven, 0x86, 32⟩ : Config).fallbackOpcode = 0x86 := by decide
theorem witness_HeaderStep : active.cursor = 0 := by decide
theorem witness_TypeStep : (at_ 1 thirtyPpm active).cursor = 1 := by decide
theorem witness_IntendedTypeTest : active.cfg.typeCheck = .intended := by decide
theorem witness_AsBuiltTypeTest : asBuilt.cfg.typeCheck = .asBuilt := by decide
theorem witness_PayloadStep :
    (2 ≤ (at_ 2 thirtyPpm active).cursor.val ∧ (at_ 2 thirtyPpm active).cursor.val ≤ 6) ∧
    (2 ≤ (at_ 6 thirtyPpm active).cursor.val ∧ (at_ 6 thirtyPpm active).cursor.val ≤ 6) := by decide
theorem witness_ReservedByteStep : (at_ 7 thirtyPpm active).cursor = 7 := by decide
theorem witness_ChecksumStep : (at_ 8 thirtyPpm active).cursor = 8 := by decide
theorem witness_CursorAdvancesOrReturnsToZero : (at_ 8 thirtyPpm active).cursor = 8 := by decide
theorem witness_ChecksumIsTheReducedSum : active.cfg.csumLast = .seven := by decide
theorem witness_SingleByteErrorIsCaught :
    (active.cfg.csumLast = .six → (1 : Offset) ≠ 7) ∧ (active.cfg.csumLast = .six → (8 : Offset) ≠ 7) ∧
    checksumOk active.cfg thirtyPpm = true ∧ (1 ≤ (1 : Offset).val ∧ (0x87 : Byte) ≠ thirtyPpm[(1 : Offset)]) ∧
    (1 ≤ (8 : Offset).val ∧ (0x4C : Byte) ≠ thirtyPpm[(8 : Offset)]) := by decide
/-- Each clause at its bounds: len = 2 and len the whole length; len 0 and 1, and one past the length; nine bytes. -/
theorem witness_ChecksumAtEveryLength :
    let b : List Byte := [0xFF, 0x01, 0x86]
    (2 ≤ 2 ∧ 2 ≤ b.length) ∧ (2 ≤ 3 ∧ 3 ≤ b.length) ∧ 2 ≤ b.length ∧ 0 < 2 ∧ 1 < 2 ∧ b.length < 4 ∧
      active.cfg.csumLast = .seven := by decide
theorem witness_UnchosenBytesHaveNoEffect :
    let g : Frame := #v[0x00, 0x86, 0x12, 0x34, 0x01, 0x2C, 0x9A, 0xBC, 0x00]
    thirtyPpm[1] = g[1] ∧ thirtyPpm[hiOffset thirtyPpm[1]] = g[hiOffset thirtyPpm[1]] ∧
      thirtyPpm[loOffset thirtyPpm[1]] = g[loOffset thirtyPpm[1]] := by decide
theorem witness_PublishedValueRange :
    (rxStep 0x4D (at_ 8 thirtyPpm active)).outputs =
      (at_ 8 thirtyPpm active).outputs ++ [.statusClear, .publish 300] := by decide
theorem witness_ExpectedAnswerFrameResult : active.cursor = 0 ∧ typeOk active.cfg active.rxOnly 0x86 = true := by decide
theorem witness_ExpectedBroadcastFrameResult :
    passive.cursor = 0 ∧ typeOk passive.cfg passive.rxOnly passive.cfg.gasTypeCo = true := by decide
theorem witness_PassingOtherFrameResult :
    asBuilt.cursor = 0 ∧ typeOk asBuilt.cfg asBuilt.rxOnly 0x17 = true ∧ (0x17 : Byte) ≠ 0x86 := by decide
theorem witness_UnexpectedTypeFrame_answer (p : Payload) :
    passive.cursor = 0 ∧ typeOk passive.cfg passive.rxOnly 0x86 = false ∧
      (Instr.inAnswer p = .inAnswer p ∧ (0x86 : Byte) = 0x86) := ⟨rfl, rfl, rfl, rfl⟩
theorem witness_UnexpectedTypeFrame_broadcast (p : Payload) :
    active.cursor = 0 ∧ typeOk active.cfg active.rxOnly 0x04 = false ∧
      (Instr.inBroadcast p = .inBroadcast p ∧ (0x04 : Byte) = active.cfg.gasTypeCo) := ⟨rfl, rfl, rfl, rfl⟩
theorem witness_UnexpectedTypeFrame_other (p : Payload) :
    active.cursor = 0 ∧ typeOk active.cfg active.rxOnly 0x17 = false ∧ Instr.inOther 0x17 p = .inOther 0x17 p :=
  ⟨rfl, rfl, rfl⟩
theorem witness_NineBytesReachTheSinkIffValid : active.cursor = 0 := by decide
theorem witness_StrayHeaderLosesTheFrame :
    active.cursor = 0 ∧ typeOk active.cfg active.rxOnly 0xFF = false ∧ thirtyPpm[0] = 0xFF := by decide
theorem witness_FrameMacrosPublishTheirReading :
    (active.cursor = 0 ∧ active.cfg.typeCheck = .intended ∧ active.rxOnly = false) ∧
    (passive.cursor = 0 ∧ passive.cfg.typeCheck = .intended ∧ passive.rxOnly = true) := by
  decide
theorem witness_ResetOperation :
    (asked [.op (.reset true)] (at_ 5 thirtyPpm active)).inputs = .op (.reset true) :: [] := rfl
/-- The three cases of a tick: no byte, 500 ms and 501 ms after a partial frame. -/
theorem witness_TickStepsEveryByteInOrder :
    ((asked [.op (.tick 9 [])] active).inputs = .op (.tick 9 []) :: [] ∧ active.rx ++ [] = []) ∧
    (asked [.op (.tick 500 [0xFF])] (at_ 4 thirtyPpm active)).inputs = .op (.tick 500 [0xFF]) :: [] ∧
    (asked [.op (.tick 501 [0xFF])] (at_ 4 thirtyPpm active)).inputs = .op (.tick 501 [0xFF]) :: [] ∧
    0 < (at_ 4 thirtyPpm active).cursor.val ∧ ¬ 500 < elapsed 500 (at_ 4 thirtyPpm active) ∧
    500 < elapsed 501 (at_ 4 thirtyPpm active) := by decide
theorem witness_IdleTickChangesNothing :
    (asked [.op (.tick 9 [])] active).inputs = .op (.tick 9 []) :: [] ∧ (asked [.op (.tick 9 [])] active).rx = [] := by
  decide
theorem witness_FrameAfterLongPauseIsDecoded :
    let s := asked [.op (.tick 501 thirtyPpm.toList)] (at_ 8 thirtyPpm active)
    s.inputs = .op (.tick 501 thirtyPpm.toList) :: [] ∧ s.rx = [] ∧ 500 < elapsed 501 s ∧
      thirtyPpm[0] = 0xFF ∧ typeOk s.cfg s.rxOnly thirtyPpm[1] = true ∧ checksumOk s.cfg thirtyPpm = true := by decide
theorem witness_SplitTicksAgreeWithOne :
    active.rx = [] ∧ [0xFF, (0x86 : Byte)] ≠ [] ∧ [(0x00 : Byte)] ≠ [] ∧ subMod active.cfg.clockW 600 100 ≤ 500 := by decide
theorem witness_StartupWritesTheModeSetCommandInActiveOnly :
    ∀ b, (asked (startup b) passive).inputs = startup b := fun _ => rfl
theorem witness_StepKeepsInvariants :
    let s := asked [.op (.tick 1 [0x2C])] (at_ 5 thirtyPpm active)
    (s.lastRx < 2 ^ s.cfg.clockW ∧ (0 < s.cursor → s.buf[0] = headerSentinel) ∧ (1 < s.cursor → typeOk s.cfg s.rxOnly s.buf[1] = true)) ∧
      (next? (step s)).map State.cursor = some 6 := by decide
theorem witness_StaleBufferBytesAreNeverRead :
    let s := at_ 4 thirtyPpm active
    let t := at_ 4 ((thirtyPpm.set 4 0xAA).set 8 0xBB) active
    t = { s with buf := t.buf } ∧ ∀ i : Offset, i < s.cursor → t.buf[i] = s.buf[i] := by decide
/-- A step of each kind, for the statements about every step: WhoWritesTheRegisters, ConfigurationIsFixedBetweenResets
and PortsAreReachedByTheirOperationsOnly. -/
theorem witness_steps_of_each_kind :
    (next? (step (asked [.op (.tick 5 [0xFF])] active))).map (fun t => (t.lastRx, t.cursor)) = some (5, 1) ∧
    (next? (step (asked [.op (.reset true)] (at_ 5 thirtyPpm active)))).map (fun t => (t.rxOnly, t.cursor)) =
      some (true, 0) ∧
    (next? (step (asked [.op (.send 0)] (at_ 5 thirtyPpm active)))).map (fun t => (t.outputs.length, t.cursor)) =
      some (1, 5) := by decide
theorem witness_ArrivalsQueueAndIdleStepsHold :
    (asked [.arrive [0xFF]] active).inputs = .arrive [0xFF] :: [] ∧
    (asked [.driveRxOnly false] active).inputs = .driveRxOnly active.rxOnly :: [] ∧ active.inputs = [] := by decide
theorem witness_LegalRunsNeverStop :
    legalInputs active.rxOnly [.op (.reset true), .driveRxOnly true, .arrive [0xFF], .op (.tick 1 []), .op (.send 9)] =
      true := by decide
theorem witness_MeaninglessActsAreRefused :
    (asked [.driveRxOnly true] active).inputs = .driveRxOnly (!active.rxOnly) :: [] ∧
    (asked [.overlap (.tick 0 []) (.send 0)] active).inputs = .overlap (.tick 0 []) (.send 0) :: [] := ⟨rfl, rfl⟩

end Sys2Proof.Tests
end

section
/-! The reading of a frame as a word: which two bytes the type byte chooses (R121), and how they are joined (R44, R64). -/

namespace Sys2Proof.Machine

/-! ### The offsets chosen by the type byte (R121) -/

theorem hiOffset_of_answer {type : Byte} (h : type = opAnswer) : hiOffset type = 4 := if_pos h
theorem loOffset_of_answer {type : Byte} (h : type = opAnswer) : loOffset type = 5 := if_pos h
theorem hiOffset_of_not_answer {type : Byte} (h : type ≠ opAnswer) : hiOffset type = 2 := if_neg h
theorem loOffset_of_not_answer {type : Byte} (h : type ≠ opAnswer) : loOffset type = 3 := if_neg h

/-- R121, the first case: the offsets chosen for an answer frame, as literals. -/
theorem frameRaw_of_answer {f : Frame} (h : f[1] = opAnswer) : frameRaw f = rawOf f[4] f[5] := by
  simp [frameRaw, hiOffset_of_answer h, loOffset_of_answer h]

/-- R121, the other case: the offsets chosen for every other type, as literals. -/
theorem frameRaw_of_not_answer {f : Frame} (h : f[1] ≠ opAnswer) : frameRaw f = rawOf f[2] f[3] := by
  simp [frameRaw, hiOffset_of_not_answer h, loOffset_of_not_answer h]

/-! ### Joining the two bytes (R44, R64) -/

/-- The sum in `rawOf` does not wrap: 255 * 256 + 255 is the largest 16-bit word. -/
theorem rawOf_toNat (hi lo : Byte) : (rawOf hi lo).toNat = hi.toNat * 256 + lo.toNat := by
  unfold rawOf
  bv_omega

/-- Multiplying by 256 and adding a byte is writing the two bytes side by side, `hi` the more significant. -/
theorem rawOf_eq_append (hi lo : Byte) : rawOf hi lo = hi ++ lo := by
  apply BitVec.eq_of_toNat_eq
  calc (rawOf hi lo).toNat = hi.toNat * 256 + lo.toNat := rawOf_toNat hi lo
    _ = hi.toNat <<< 8 + lo.toNat := by rw [Nat.shiftLeft_eq]
    _ = hi.toNat <<< 8 ||| lo.toNat := Nat.shiftLeft_add_eq_or_of_lt lo.isLt hi.toNat
    _ = (hi ++ lo).toNat := (BitVec.toNat_append hi lo).symm

/-- Settles O26: the type byte chooses the pair of bytes, and `rawOf` joins them high byte first. -/
theorem readingIsBigEndian : Obligations.ReadingIsBigEndian := by
  intro f
  by_cases h : f[1] = opAnswer
  · rw [frameRaw_of_answer h, rawOf_eq_append, if_pos h]
  · rw [frameRaw_of_not_answer h, rawOf_eq_append, if_neg h]

end Sys2Proof.Machine
end

section
/-! The transition table of the Frame Decoder, one rule per offset (R81 to R87): each is the row of `byteResult` for the
cursor, put into the state. -/

namespace Sys2Proof.Machine

variable (s : State)

/-! ### What each kind of result does to the state -/

/-- An accepted byte that completes no frame puts nothing out. -/
theorem applyResult_silent (k : Offset) (b : Frame) (complete : Bool) :
    applyResult s ⟨k, b, none, none, complete⟩ = { s with cursor := k, buf := b } :=
  congrArg (fun o => { s with cursor := k, buf := b, outputs := o }) (List.append_nil s.outputs)

theorem applyResult_signal (k : Offset) (b : Frame) (e : Event) (complete : Bool) :
    applyResult s ⟨k, b, none, some e, complete⟩ =
      { s with cursor := k, buf := b, outputs := s.outputs ++ [.event e] } := rfl

/-- An accepted frame is handed to Extract; the cursor is written last (R87). -/
theorem applyResult_accepted (k : Offset) (b f : Frame) (complete : Bool) :
    applyResult s ⟨k, b, some f, none, complete⟩ = { extract f { s with buf := b } with cursor := k } := by
  rw [extract_eq]
  rfl

/-! ### The byte step at a known cursor -/

theorem rxStep_of_cursor {k : Offset} (hk : s.cursor = k) (v : Byte) :
    rxStep v s = applyResult s (byteResult s.cfg s.rxOnly k s.buf v) := by
  rw [rxStep_eq_byteResult, resultOf, hk]

/-- At offsets 2 to 7, the reserved one among them, no byte is tested (R85, R86). -/
theorem rxStep_middle (v : Byte) (h2 : 2 ≤ s.cursor.val) (h7 : s.cursor.val ≤ 7) :
    rxStep v s = { s with buf := s.buf.set s.cursor v, cursor := s.cursor + 1 } := by
  rw [rxStep_of_cursor s rfl, byteResult_middle _ _ _ _ _ h2 h7, applyResult_silent]

/-! ### The type test under INTENDED -/

theorem typeOk_of_intended {cfg : Config} (h : cfg.typeCheck = .intended) (rxOnly : Bool) (v : Byte) :
    typeOk cfg rxOnly v = typeOkIntended cfg rxOnly v := by
  rw [typeOk, h]

theorem typeOkIntended_iff (cfg : Config) (rxOnly : Bool) (v : Byte) :
    typeOkIntended cfg rxOnly v = true ↔ v = if rxOnly then cfg.gasTypeCo else opAnswer :=
  beq_iff_eq

/-! ### The rules -/

/-- Settles O9: the header row of the table, in its two outcomes. -/
theorem headerStep : Obligations.HeaderStep := by
  intro s v hk
  rw [rxStep_of_cursor s hk, byteResult_header]
  by_cases hv : v = 0xFF
  · rw [if_pos hv, if_pos hv, applyResult_silent]
  · rw [if_neg hv, if_neg hv, applyResult_signal]

/-- Settles O10: the type row of the table, in its two outcomes. -/
theorem typeStep : Obligations.TypeStep := by
  intro s v hk
  rw [rxStep_of_cursor s hk, byteResult_type]
  by_cases hv : typeOk s.cfg s.rxOnly v = true
  · rw [if_pos hv, if_pos hv, applyResult_silent]
  · rw [if_neg hv, if_neg hv, applyResult_signal]

/-- Settles O11: the parameter selects the intended test, which is one comparison. -/
theorem intendedTypeTest : Obligations.IntendedTypeTest := by
  intro cfg rxOnly v h
  rw [typeOk_of_intended h]
  exact typeOkIntended_iff cfg rxOnly v

/-- Settles O13: a payload byte stands at an untested offset. -/
theorem payloadStep : Obligations.PayloadStep := by
  intro s v h2 h6
  exact rxStep_middle s v h2 (Nat.le_succ_of_le h6)

/-- Settles O14: the reserved byte stands at an untested offset, like a payload byte. -/
theorem reservedByteStep : Obligations.ReservedByteStep := by
  intro s v hk
  rw [rxStep_middle s v (by simp [hk]) (by simp [hk])]
  simp [hk]

/-- Settles O15: the checksum row of the table, in its two outcomes, both of which end at cursor 0. -/
theorem checksumStep : Obligations.ChecksumStep := by
  intro s v hk b c
  rw [rxStep_of_cursor s hk, byteResult_checksum]
  by_cases hc : c = v
  · rw [if_pos hc, if_pos hc.symm, applyResult_accepted]
  · rw [if_neg hc, if_neg (Ne.symm hc), applyResult_signal]

end Sys2Proof.Machine
end

section
/-! Stamping a frame: the checksum byte at offset 8 is not among the summed offsets (R104). -/

namespace Sys2Proof.Machine

/-- The checksum test is the comparison of R87. -/
theorem checksumOk_iff (cfg : Config) (f : Frame) : checksumOk cfg f = true ↔ checksum cfg f = f[8] :=
  beq_iff_eq

/-- Offset 8 lies beyond the last summed offset in either reading of CSUM_LAST. -/
@[simp] theorem checksum_set_eight (cfg : Config) (f : Frame) (v : Byte) :
    checksum cfg (f.set 8 v) = checksum cfg f := by
  apply checksum_congr
  intro i _ h7
  have hne : 8 ≠ i.val := by omega
  exact Vector.getElem_set_ne (by decide) i.isLt hne

/-- Recomputing over a stamped frame answers the byte it carries. -/
theorem checksum_stamp (cfg : Config) (f : Frame) : checksum cfg (stamp cfg f) = (stamp cfg f)[8] :=
  calc checksum cfg (stamp cfg f) = checksum cfg f := checksum_set_eight cfg f _
    _ = (stamp cfg f)[8] := (Vector.getElem_set_self (by decide)).symm

/-- Settles O22: the stamped byte is not summed, so the recomputed checksum is the one that was stored. -/
theorem stampThenCheckSucceeds : Obligations.StampThenCheckSucceeds := by
  intro cfg f
  have h := checksum_stamp cfg f
  exact ⟨h, (checksumOk_iff cfg _).mpr h⟩

end Sys2Proof.Machine
end

section
/-! The four commands on the TX port (R112 to R115): what a selector's opcode, sub-code and checksum byte fix. -/

namespace Sys2Proof.Machine

/-- The effect of a command (R110, R111): with `OpSub` and the checksum byte known, the frame is known byte for byte, in
either reading of CSUM_LAST, and it is all that changes. -/
theorem exec_selectorCommand_of_opSub {sel : Nat} {opcode sub cs : Byte} (s : State)
    (hop : opSub s.cfg sel = (opcode, sub)) (hcs : neg8 (0x01 + opcode + sub) = cs) :
    exec (selectorCommand sel) s = .next { s with outputs := s.outputs ++
      [.writeBytes #v[0xFF, 0x01, opcode, sub, 0x00, 0x00, 0x00, 0x00, cs]] } := by
  have hframe : commandFrame s.cfg sel = #v[0xFF, 0x01, opcode, sub, 0x00, 0x00, 0x00, 0x00, cs] := by
    rw [commandFrame_eq, hop, hcs]
  rw [exec_selectorCommand, encodeCommand, hframe]
  rfl

/-- Settles O31: selector 0, whose checksum byte is 0x79. -/
theorem queryWritesItsFrame : Obligations.QueryWritesItsFrame := by
  intro s
  have hcs : neg8 (0x01 + opAnswer + 0x00) = 0x79 := by decide
  exact exec_selectorCommand_of_opSub (sel := 0) s rfl hcs

/-- Settles O32: selector 1, whose checksum byte is 0x47. -/
theorem setUploadWritesItsFrame : Obligations.SetUploadWritesItsFrame := by
  intro s
  have hcs : neg8 (0x01 + opSwitchMode + subUpload) = 0x47 := by decide
  exact exec_selectorCommand_of_opSub (sel := 1) s rfl hcs

/-- Settles O33: selector 2, whose checksum byte is 0x46. -/
theorem setQaWritesItsFrame : Obligations.SetQaWritesItsFrame := by
  intro s
  have hcs : neg8 (0x01 + opSwitchMode + subQa) = 0x46 := by decide
  exact exec_selectorCommand_of_opSub (sel := 2) s rfl hcs

/-- Settles O34: selector 3 stands for every unrecognised one, and its sub-code 0x00 adds nothing to the checksum. -/
theorem fallbackWritesItsFrame : Obligations.FallbackWritesItsFrame := by
  intro s
  have hcs : neg8 (0x01 + s.cfg.fallbackOpcode + 0x00) = neg8 (0x01 + s.cfg.fallbackOpcode) :=
    congrArg neg8 (BitVec.add_zero _)
  exact exec_selectorCommand_of_opSub (sel := 3) s rfl hcs

end Sys2Proof.Machine
end

section
/-! The Concentration Extractor (R120): the reading as a number, and the outputs it decides. -/

namespace Sys2Proof.Machine

/-- The joined word is the one `BitVec.ofNat` gives for the number of R64. -/
theorem rawOf_eq_ofNat (hi lo : Byte) : rawOf hi lo = BitVec.ofNat 16 (hi.toNat * 256 + lo.toNat) := by
  rw [← rawOf_toNat, BitVec.ofNat_toNat, BitVec.setWidth_eq]

/-- The reading of any frame, the type byte choosing each of its two bytes by a literal offset (R120, R121). -/
theorem frameRaw_eq_rawOf_ite (f : Frame) : frameRaw f =
    rawOf (if f[1] = opAnswer then f[4] else f[2]) (if f[1] = opAnswer then f[5] else f[3]) := by
  by_cases h : f[1] = opAnswer
  · rw [frameRaw_of_answer h, if_pos h, if_pos h]
  · rw [frameRaw_of_not_answer h, if_neg h, if_neg h]

/-- StatusClear is first and unconditional; only what follows it depends on the reading (R122, R125). -/
theorem extractOutputs_eq_statusClear_append (f : Frame) : extractOutputs f =
    [.statusClear] ++ if (frameRaw f).toNat > 0 then [.publish (frameRaw f)] else [] := by
  change (if (frameRaw f).toNat > 0 then _ else _) = _
  split <;> rfl

/-- Settles O28: `extract_eq` is the frame, and the outputs follow the reading of the two bytes chosen. -/
theorem extractClearsThenPublishesPositive : Obligations.ExtractClearsThenPublishesPositive := by
  intro f s hi lo raw
  have hraw : frameRaw f = raw := (frameRaw_eq_rawOf_ite f).trans (rawOf_eq_ofNat hi lo)
  rw [extract_eq, extractOutputs_eq_statusClear_append, hraw, List.append_assoc]

end Sys2Proof.Machine
end

section
/-! The host operations TICK and SEND (R131 to R135): the staleness test and the start of a tick as conditions on
integers, and what the step of each operation is. -/

namespace Sys2Proof.Machine

variable (s : State)

/-! ### The start of a tick (R131, R134) -/

/-- The elapsed time as the integer of R134, reduced modulo 2^CLOCK_W. -/
theorem elapsed_cast (now : Time) : (elapsed now s : ℤ) = ((now : ℤ) - s.lastRx) % 2 ^ s.cfg.clockW := by
  have hnonneg : 0 ≤ ((now : ℤ) - s.lastRx) % ((2 ^ s.cfg.clockW : ℕ) : ℤ) :=
    Int.emod_nonneg _ (Int.natCast_ne_zero.mpr (Nat.two_pow_pos _).ne')
  rw [elapsed, subMod, Int.toNat_of_nonneg hnonneg, Nat.cast_pow, Nat.cast_ofNat]

/-- The elapsed time in natural numbers: the clock's modulus is added before the subtraction, which cannot truncate. -/
theorem elapsed_eq (now : Time) : elapsed now s =
    (now % 2 ^ s.cfg.clockW + 2 ^ s.cfg.clockW - s.lastRx % 2 ^ s.cfg.clockW) % 2 ^ s.cfg.clockW :=
  subMod_eq _ _ _

/-- What the start of a tick does, written out: the discard of a partial frame after more than 500 ms, and in either
case the timestamp. -/
theorem tickStart_eq_ite (now : Time) : tickStart now s =
    if 0 < s.cursor.val ∧ 500 < elapsed now s then
      { s with cursor := 0, lastRx := now % 2 ^ s.cfg.clockW,
               outputs := s.outputs ++ [.event (.stale s.cursor (elapsed now s))] }
    else { s with lastRx := now % 2 ^ s.cfg.clockW } := by
  rw [tickStart_eq, if_congr (isStale_iff s now) rfl rfl]
  rfl

/-- Settles O48: the strict test on the integer R134 names, which 501 is the first to pass. -/
theorem stalenessThreshold : Obligations.StalenessThreshold := by
  intro s now gap
  have hgap : gap = elapsed now s := (elapsed_cast s now).symm
  clear_value gap
  subst hgap
  constructor
  · rw [isStale_iff, Nat.ofNat_lt_cast]
  · have hfirst : 500 < elapsed now s ↔ 501 ≤ (elapsed now s : ℤ) :=
      Nat.succ_le_iff.symm.trans Nat.ofNat_le_cast.symm
    rw [tickStart_eq_ite, Int.toNat_natCast]
    exact if_congr (and_congr_right' hfirst) rfl rfl

/-! ### The step of a given input (R13) -/

/-- A step takes the first input off the list and does it (R13). -/
theorem step_of_inputs {x : Input} {later : List Input} (h : s.inputs = x :: later) :
    step s = doInput x (setInputs later s) := by
  rw [step, takeInput, h]

/-! ### The step of a TICK (R132, R133) -/

variable {s} {now : Time} {arrivals : List Byte} {later : List Input}

/-- A TICK joins the arrivals to the queue; with no byte it is idle, otherwise the start of the tick is followed by
`RxStep` for each byte. The queue ends empty in both cases. -/
theorem step_tick (h : s.inputs = .op (.tick now arrivals) :: later) : step s = .next (
    if s.rx ++ arrivals = [] then { s with inputs := later, rx := [] }
    else feed (s.rx ++ arrivals) (tickStart now { s with inputs := later, rx := [] })) := by
  have hdo : step s = doTick now (setRx (s.rx ++ arrivals) (setInputs later s)) := step_of_inputs s h
  rw [hdo, doTick_eq, setRx_rx, ← tickStart_setRx, setRx_setRx]
  by_cases hb : s.rx ++ arrivals = []
  · rw [if_pos hb, if_pos hb, hb]
    rfl
  · rw [if_neg hb, if_neg hb]
    rfl

/-- Settles O46: the step of a TICK, with its start written out in natural numbers. -/
theorem tickStepsEveryByteInOrder : Obligations.TickStepsEveryByteInOrder := by
  intro s now arrivals later h
  rw [step_tick h, tickStart_eq_ite, elapsed_eq, apply_ite (feed (s.rx ++ arrivals))]
  rfl

/-- Settles O47: with nothing queued and nothing arriving the step of a TICK is the idle one. -/
theorem idleTickChangesNothing : Obligations.IdleTickChangesNothing := by
  intro s now later h hrx
  rw [step_tick h, if_pos (by rw [hrx, List.append_nil]), ← hrx]

/-! ### The step of a SEND (R135) -/

theorem step_send {sel : Nat} (h : s.inputs = .op (.send sel) :: later) :
    step s = exec (selectorCommand sel) { s with inputs := later } :=
  step_of_inputs s h

/-- Settles O2: every selector's command is an `Encode` (R111), which appends one frame to the outputs (R110). -/
theorem sendStepRunsTheSelectedCommand : Obligations.SendStepRunsTheSelectedCommand := by
  intro s sel later h
  refine ⟨step_send h, ?_⟩
  rw [step_send h, exec_selectorCommand]
  rfl

end Sys2Proof.Machine
end

section
/-! Decoding and encoding on both streams (R60 to R67): each decoder as the form of the bytes it accepts, from which the
two round trips follow. -/

namespace Sys2Proof.Machine

variable (cfg : Config)

/-! ### The inbound stream -/

theorem inboundKind_answer (p : Payload) : inboundKind cfg opAnswer p = .inAnswer p := if_pos rfl

theorem inboundKind_gasType (p : Payload) (h : cfg.gasTypeCo ≠ opAnswer) :
    inboundKind cfg cfg.gasTypeCo p = .inBroadcast p :=
  (if_neg h).trans (if_pos rfl)

theorem inboundKind_other {type : Byte} (p : Payload) (ha : type ≠ opAnswer) (hg : type ≠ cfg.gasTypeCo) :
    inboundKind cfg type p = .inOther type p :=
  (if_neg ha).trans (if_neg hg)

/-- The kind a type byte tells is the reading of its own word: it is well formed, inbound, and encodes to the type byte
and the payload it was made of. -/
theorem inboundKind_spec (type : Byte) (p : Payload) :
    (inboundKind cfg type p).WellFormed cfg ∧ (inboundKind cfg type p).direction = .inbound ∧
      encode cfg (inboundKind cfg type p) = headerSentinel :: type :: payloadBytes p := by
  by_cases ha : type = opAnswer
  · subst ha
    rw [inboundKind_answer]
    exact ⟨rfl, rfl, rfl⟩
  by_cases hg : type = cfg.gasTypeCo
  · subst hg
    rw [inboundKind_gasType cfg p ha]
    exact ⟨bne_iff_ne.mpr ha, rfl, rfl⟩
  · rw [inboundKind_other cfg p ha hg]
    exact ⟨Bool.and_eq_true_iff.mpr ⟨bne_iff_ne.mpr ha, bne_iff_ne.mpr hg⟩, rfl, rfl⟩

/-- A well-formed inbound instruction is the kind of the type byte it is encoded with. -/
theorem eq_inboundKind_of_wellFormed {i : Instr} (hwf : i.WellFormed cfg) (hdir : i.direction = .inbound) :
    ∃ type p, i = inboundKind cfg type p := by
  cases i with
  | inAnswer p => exact ⟨opAnswer, p, (inboundKind_answer cfg p).symm⟩
  | inBroadcast p => exact ⟨cfg.gasTypeCo, p, (inboundKind_gasType cfg p (bne_iff_ne.mp hwf)).symm⟩
  | inOther type p =>
    obtain ⟨ha, hg⟩ := Bool.and_eq_true_iff.mp hwf
    exact ⟨type, p, (inboundKind_other cfg p (bne_iff_ne.mp ha) (bne_iff_ne.mp hg)).symm⟩
  | cmdQuery | cmdSetUpload | cmdSetQa | cmdFallback => cases hdir

/-- What the inbound decoder accepts: a header, a type byte and a payload; it answers the kind the type byte tells. -/
theorem decodeInbound_eq_ok_iff {bytes rest : List Byte} {i : Instr} :
    decodeInbound cfg bytes = .ok (i, rest) ↔
      ∃ type p, i = inboundKind cfg type p ∧ bytes = headerSentinel :: type :: (payloadBytes p ++ rest) := by
  constructor
  · intro h
    unfold decodeInbound at h
    split at h
    case h_2 => cases h
    case h_1 hd type p0 p1 p2 p3 p4 r7 cs tail =>
      split at h
      case isFalse => cases h
      case isTrue hhd =>
        cases h
        exact ⟨type, ⟨p0, p1, p2, p3, p4, r7, cs⟩, rfl, by rw [hhd]; rfl⟩
  · rintro ⟨type, p, rfl, rfl⟩
    simp [decodeInbound, payloadBytes]

/-- Settles O5: a well-formed inbound instruction is the kind of its type byte, and its encoding has the accepted form. -/
theorem inboundDecodeOfEncode : Obligations.InboundDecodeOfEncode := by
  intro cfg i rest hwf hdir
  obtain ⟨type, p, rfl⟩ := eq_inboundKind_of_wellFormed cfg hwf hdir
  obtain ⟨-, -, henc⟩ := inboundKind_spec cfg type p
  exact (decodeInbound_eq_ok_iff cfg).mpr ⟨type, p, rfl, by rw [henc]; rfl⟩

/-! ### The outbound stream -/

/-- The nine bytes of a command with the given opcode and sub-code: marker, zeros at the reserved offsets, and the
checksum (R63, R67). -/
def commandBytes (opcode sub : Byte) : List Byte :=
  [headerSentinel, sendMarker, opcode, sub, 0x00, 0x00, 0x00, 0x00, neg8 (sendMarker + opcode + sub)]

theorem commandBytes_of_checksum {opcode sub cs : Byte} (h : neg8 (sendMarker + opcode + sub) = cs) :
    commandBytes opcode sub = [0xFF, 0x01, opcode, sub, 0x00, 0x00, 0x00, 0x00, cs] := by
  rw [← h]; rfl

/-- A selector's command is encoded with the opcode and the sub-code of R111. -/
theorem encode_selectorCommand (sel : Nat) :
    encode cfg (selectorCommand sel) = commandBytes (opSub cfg sel).1 (opSub cfg sel).2 := by
  match sel with
  | 0 | 1 | 2 => exact (commandBytes_of_checksum (by decide)).symm
  | _ + 3 => exact (commandBytes_of_checksum (congrArg neg8 (BitVec.add_zero _))).symm

theorem selectorCommand_direction (sel : Nat) : (selectorCommand sel).direction = .outbound := by
  match sel with
  | 0 | 1 | 2 | _ + 3 => rfl

/-- Every outbound instruction is the command of a selector, which is the one `commandSelector` gives. -/
theorem exists_commandSelector {i : Instr} (h : i.direction = .outbound) :
    ∃ sel, commandSelector i = some sel ∧ selectorCommand sel = i := by
  cases i with
  | inAnswer | inBroadcast | inOther => cases h
  | cmdQuery | cmdSetUpload | cmdSetQa | cmdFallback => exact ⟨_, rfl, rfl⟩

/-- The command read from an opcode and a sub-code is the well-formed one whose selector stands for them. -/
theorem commandKind_eq_ok_iff {opcode sub : Byte} {i : Instr} :
    commandKind cfg opcode sub = .ok i ↔
      ∃ sel, i = selectorCommand sel ∧ i.WellFormed cfg ∧ opSub cfg sel = (opcode, sub) := by
  constructor
  · intro h
    unfold commandKind at h
    split at h
    case isTrue hq =>
      obtain ⟨rfl, rfl⟩ := hq
      cases h; exact ⟨0, rfl, rfl, rfl⟩
    case isFalse hq =>
    split at h
    case isTrue hu =>
      obtain ⟨rfl, rfl⟩ := hu
      cases h; exact ⟨1, rfl, rfl, rfl⟩
    case isFalse =>
    split at h
    case isTrue ha =>
      obtain ⟨rfl, rfl⟩ := ha
      cases h; exact ⟨2, rfl, rfl, rfl⟩
    case isFalse =>
    split at h
    case isTrue hf =>
      obtain ⟨rfl, rfl⟩ := hf
      cases h; exact ⟨3, rfl, bne_iff_ne.mpr fun he => hq ⟨he, rfl⟩, rfl⟩
    case isFalse => cases h
  · rintro ⟨sel, rfl, hwf, hop⟩
    match sel with
    | 0 | 1 | 2 => cases hop; rfl
    | _ + 3 =>
      cases hop
      have hne : cfg.fallbackOpcode ≠ opAnswer := bne_iff_ne.mp hwf
      simpa [commandKind, selectorCommand, subUpload, subQa] using hne

/-- What the outbound decoder accepts: the nine bytes of a command it knows. -/
theorem decodeOutbound_eq_ok_iff {bytes rest : List Byte} {i : Instr} :
    decodeOutbound cfg bytes = .ok (i, rest) ↔
      ∃ opcode sub, commandKind cfg opcode sub = .ok i ∧ bytes = commandBytes opcode sub ++ rest := by
  constructor
  · intro h
    unfold decodeOutbound at h
    split at h
    case h_2 => cases h
    case h_1 hd marker opcode sub z4 z5 z6 z7 cs tail =>
      split at h
      case isTrue => cases h
      case isFalse hhd =>
      split at h
      case isTrue => cases h
      case isFalse hmarker =>
      split at h
      case isTrue => cases h
      case isFalse hzero =>
      split at h
      case isTrue => cases h
      case isFalse hcs =>
      split at h
      case h_2 => cases h
      case h_1 j hkind =>
        cases h
        simp only [not_or, not_not] at hhd hmarker hzero hcs
        obtain ⟨rfl, rfl, rfl, rfl⟩ := hzero
        subst hhd hmarker hcs
        exact ⟨opcode, sub, hkind, rfl⟩
  · rintro ⟨opcode, sub, hkind, rfl⟩
    simp [decodeOutbound, commandBytes, hkind]

/-- What decodes on the outbound stream is the well-formed command of a selector, and the bytes are its encoding. -/
theorem decodeOutbound_eq_ok_iff_encode {bytes rest : List Byte} {i : Instr} :
    decodeOutbound cfg bytes = .ok (i, rest) ↔
      i.WellFormed cfg ∧ i.direction = .outbound ∧ encode cfg i ++ rest = bytes := by
  rw [decodeOutbound_eq_ok_iff]
  constructor
  · rintro ⟨opcode, sub, hkind, rfl⟩
    obtain ⟨sel, rfl, hwf, hop⟩ := (commandKind_eq_ok_iff cfg).mp hkind
    refine ⟨hwf, selectorCommand_direction sel, ?_⟩
    rw [encode_selectorCommand, hop]
  · rintro ⟨hwf, hdir, rfl⟩
    obtain ⟨sel, -, rfl⟩ := exists_commandSelector hdir
    exact ⟨(opSub cfg sel).1, (opSub cfg sel).2, (commandKind_eq_ok_iff cfg).mpr ⟨sel, rfl, hwf, rfl⟩,
      by rw [encode_selectorCommand]⟩

/-- Settles O6: the encoding of a well-formed command has the form the decoder accepts. -/
theorem outboundDecodeOfEncode : Obligations.OutboundDecodeOfEncode := by
  intro cfg i rest hwf hdir
  exact (decodeOutbound_eq_ok_iff_encode cfg).mpr ⟨hwf, hdir, rfl⟩

/-- Settles O7: on each stream the accepted form is the encoding of the instruction answered. -/
theorem encodeOfDecodeBothStreams : Obligations.EncodeOfDecodeBothStreams := by
  intro cfg bytes rest i
  constructor
  · intro h
    obtain ⟨type, p, rfl, rfl⟩ := (decodeInbound_eq_ok_iff cfg).mp h
    obtain ⟨hwf, hdir, henc⟩ := inboundKind_spec cfg type p
    exact ⟨hwf, hdir, by rw [henc]; rfl⟩
  · exact (decodeOutbound_eq_ok_iff_encode cfg).mp

/-! ### Names of one word -/

/-- Settles O8: equal type bytes, or equal opcodes, make equal words. -/
theorem aliasedRowsShareTheirWords : Obligations.AliasedRowsShareTheirWords := by
  intro cfg p
  refine ⟨fun h => ?_, fun h => ?_, rfl, rfl⟩
  · exact congrArg (0xFF :: · :: payloadBytes p) h
  · simp only [encode, h]
    decide

/-- Settles O4: the table's numbers are split into bytes and each decoder is run on them. -/
theorem writtenOutWordsDecode : Obligations.WrittenOutWordsDecode := by
  refine ⟨?_, ?_, ?_, ?_, ?_⟩ <;> decide

end Sys2Proof.Machine
end

section
/-! One byte (R80 to R88): the three things it can do, said once, and what follows from it for the cursor, the outputs
and the buffer. -/

namespace Sys2Proof.Machine

variable (s : State)

/-- The three kinds of result (R88): the byte is accepted and the cursor moves on; or it is rejected with one event; or
it completes an accepted frame. -/
theorem byteResult_cases (cfg : Config) (rxOnly : Bool) (k : Offset) (buf : Frame) (v : Byte) :
    (k.val ≤ 7 ∧ (k = 0 → v = headerSentinel) ∧ (k = 1 → typeOk cfg rxOnly v = true) ∧
      byteResult cfg rxOnly k buf v = ⟨k + 1, buf.set k v, none, none, false⟩) ∨
    (∃ e complete, byteResult cfg rxOnly k buf v = ⟨0, buf.set k v, none, some e, complete⟩) ∨
    (k = 8 ∧ checksum cfg (buf.set k v) = v ∧
      byteResult cfg rxOnly k buf v = ⟨0, buf.set k v, some (buf.set k v), none, true⟩) := by
  rcases offset_cases k with rfl | rfl | ⟨h2, h7⟩ | rfl
  · rw [byteResult_header]
    by_cases hv : v = headerSentinel
    · exact .inl ⟨by decide, fun _ => hv, nofun, if_pos hv⟩
    · exact .inr (.inl ⟨_, _, if_neg hv⟩)
  · rw [byteResult_type]
    by_cases hv : typeOk cfg rxOnly v = true
    · exact .inl ⟨by decide, nofun, fun _ => hv, if_pos hv⟩
    · exact .inr (.inl ⟨_, _, if_neg hv⟩)
  · have h0 : k ≠ 0 := by rintro rfl; simp at h2
    have h1 : k ≠ 1 := by rintro rfl; simp at h2
    exact .inl ⟨h7, (absurd · h0), (absurd · h1), byteResult_middle cfg rxOnly buf k v h2 h7⟩
  · rw [byteResult_checksum]
    by_cases hv : v = checksum cfg (buf.set 8 v)
    · exact .inr (.inr ⟨rfl, hv.symm, if_pos hv⟩)
    · exact .inr (.inl ⟨_, _, if_neg hv⟩)

/-- The same of the state; the byte is stored in each case (R80). -/
theorem rxStep_cases (v : Byte) :
    (s.cursor.val ≤ 7 ∧ (s.cursor = 0 → v = headerSentinel) ∧ (s.cursor = 1 → typeOk s.cfg s.rxOnly v = true) ∧
      rxStep v s = { s with buf := s.buf.set s.cursor v, cursor := s.cursor + 1 }) ∨
    (∃ e, rxStep v s =
      { s with buf := s.buf.set s.cursor v, cursor := 0, outputs := s.outputs ++ [.event e] }) ∨
    (s.cursor = 8 ∧ checksum s.cfg (s.buf.set s.cursor v) = v ∧
      rxStep v s = { s with buf := s.buf.set s.cursor v, cursor := 0,
                            outputs := s.outputs ++ extractOutputs (s.buf.set s.cursor v) }) := by
  rw [rxStep_of_cursor s rfl]
  rcases byteResult_cases s.cfg s.rxOnly s.cursor s.buf v with ⟨h7, h0, h1, h⟩ | ⟨e, complete, h⟩ | ⟨hk, hc, h⟩
  · exact .inl ⟨h7, h0, h1, by rw [h, applyResult_silent]⟩
  · exact .inr (.inl ⟨e, by rw [h, applyResult_signal]⟩)
  · exact .inr (.inr ⟨hk, hc, by rw [h]; rfl⟩)

/-! ### The cursor -/

/-- Settles O17: an accepted byte advances the cursor, and every other outcome leaves it at 0. -/
theorem cursorAdvancesOrReturnsToZero : Obligations.CursorAdvancesOrReturnsToZero := by
  intro s v
  rcases rxStep_cases s v with ⟨h7, -, -, h⟩ | ⟨e, h⟩ | ⟨-, -, h⟩ <;> rw [h]
  · exact ⟨.inl (offset_succ_val s.cursor h7), fun h8 => by simp [h8] at h7⟩
  · exact ⟨.inr rfl, fun _ => rfl⟩
  · exact ⟨.inr rfl, fun _ => rfl⟩

theorem rxStep_cursor_le (v : Byte) : (rxStep v s).cursor.val ≤ s.cursor.val + 1 := by
  rcases (cursorAdvancesOrReturnsToZero s v).1 with h | h
  · exact h.le
  · rw [h]; exact Nat.zero_le _

/-! ### The outputs -/

/-- What Extract puts out, by the reading (R120, R122). -/
theorem extractOutputs_of_frameRaw {f : Frame} {raw : Raw} (h : frameRaw f = raw) :
    extractOutputs f = if raw = 0 then [.statusClear] else [.statusClear, .publish raw] := by
  subst h
  rw [extractOutputs]
  by_cases h0 : frameRaw f = 0
  · rw [if_pos h0, h0]; rfl
  · rw [if_neg h0, if_pos (by bv_omega)]

/-- Settles O18: the three outcomes of a byte, an accepted frame's outputs being those of Extract. -/
theorem outputsOfOneByte : Obligations.OutputsOfOneByte := by
  intro s v t b
  rcases rxStep_cases s v with ⟨h7, -, -, h⟩ | ⟨e, h⟩ | ⟨hk, hc, h⟩
  · exact .inl (by rw [show t = _ from h]; exact ⟨rfl, offset_succ_val s.cursor h7⟩)
  · exact .inr (.inl ⟨e, h⟩)
  · refine .inr (.inr ⟨hk, hc, by rw [show t = _ from h], ?_⟩)
    have hout : t.outputs = s.outputs ++ extractOutputs b := by rw [show t = _ from h]
    rw [hout, extractOutputs_of_frameRaw rfl]
    by_cases h0 : frameRaw b = 0
    · exact .inl ⟨h0, by rw [if_pos h0]⟩
    · exact .inr ⟨h0, by rw [if_neg h0]⟩

/-- A byte's outputs come behind the earlier ones, and none of them is a TX frame. -/
theorem rxStep_outputs (v : Byte) :
    ∃ new, (rxStep v s).outputs = s.outputs ++ new ∧ ∀ f, .writeBytes f ∉ new := by
  rcases outputsOfOneByte s v with ⟨h, -⟩ | ⟨e, h⟩ | ⟨-, -, -, ⟨-, h⟩ | ⟨-, h⟩⟩
  · exact ⟨[], by rw [h, List.append_nil], by simp⟩
  · exact ⟨[.event e], by rw [h], by simp⟩
  · exact ⟨_, h, by simp⟩
  · exact ⟨_, h, by simp⟩

/-- Settles O16: the buffer is the old one with the byte set at the cursor, and the other fields are those of the frame
lemmas of `rxStep`. -/
theorem rxStepFrame : Obligations.RxStepFrame := by
  intro s v t
  obtain ⟨new, hnew, -⟩ := rxStep_outputs s v
  refine ⟨?_, fun j hj => ?_, rxStep_cfg s v, rxStep_rxOnly s v, rxStep_lastRx s v, rxStep_rx s v, rxStep_inputs s v,
    new, hnew⟩
  · rw [show t.buf = _ from rxStep_buf s v]
    exact Vector.getElem_set_self _
  · rw [show t.buf = _ from rxStep_buf s v]
    exact Vector.getElem_set_ne _ _ fun h => hj (Fin.ext h.symm)

/-- Settles O30: only a non-zero reading is published, and a non-zero 16-bit word is from 1 to 65535. -/
theorem publishedValueRange : Obligations.PublishedValueRange := by
  intro s v raw h
  have hraw : raw ≠ 0 := by
    rcases outputsOfOneByte s v with ⟨h', -⟩ | ⟨e, h'⟩ | ⟨-, -, -, ⟨-, h'⟩ | ⟨hne, h'⟩⟩
    · simp [h] at h'
    · simp [h'] at h
    · simp [h] at h'
    · simp only [h, List.append_cancel_left_eq, List.cons.injEq, Output.publish.injEq, true_and, and_true] at h'
      exact h' ▸ hne
  have hlow : 1 ≤ raw.toNat := Nat.one_le_iff_ne_zero.mpr fun h0 => hraw (BitVec.eq_of_toNat_eq h0)
  have hhigh : raw.toNat ≤ 65535 := Nat.le_of_lt_succ raw.isLt
  refine ⟨rfl, ?_, ?_⟩
  · exact div_le_div_of_nonneg_right (Nat.one_le_cast.mpr hlow) (by decide)
  · exact div_le_div_of_nonneg_right (by exact_mod_cast hhigh) (by decide)

/-! ### The buffer below the cursor -/

/-- The functional form reads the buffer below the cursor alone: the byte itself stands at the cursor, and only the
checksum test, at the last offset, reads the others (R24). -/
theorem byteResult_congr_below {cfg : Config} {rxOnly : Bool} {k : Offset} {b g : Frame} (v : Byte)
    (h : ∀ i : Offset, i < k → g[i] = b[i]) :
    byteResult cfg rxOnly k g v = { byteResult cfg rxOnly k b v with buf := g.set k v } := by
  rcases offset_cases k with rfl | rfl | ⟨h2, h7⟩ | rfl
  · rw [byteResult_header, byteResult_header]
    split <;> rfl
  · rw [byteResult_type, byteResult_type]
    split <;> rfl
  · rw [byteResult_middle _ _ _ _ _ h2 h7, byteResult_middle _ _ _ _ _ h2 h7]
  · have hset : g.set 8 v = b.set 8 v := by
      refine Vector.ext fun i hi => ?_
      rcases Nat.lt_or_ge i 8 with h8 | h8
      · rw [Vector.getElem_set_ne _ _ (Nat.ne_of_gt h8), Vector.getElem_set_ne _ _ (Nat.ne_of_gt h8)]
        exact h ⟨i, hi⟩ h8
      · obtain rfl : i = 8 := by omega
        rw [Vector.getElem_set_self, Vector.getElem_set_self]
    rw [byteResult_checksum, byteResult_checksum, hset]
    split <;> rw [← hset] <;> rfl

end Sys2Proof.Machine
end

section
/-! The step of each kind of input, written out (R13, R130 to R136), and the runs a legal outside makes. -/

namespace Sys2Proof.Machine

variable (s : State)

/-! ### The steps that are no TICK -/

theorem step_idle (h : s.inputs = []) : step s = .next s := by
  rw [step, takeInput, h]

theorem step_arrive {bytes : List Byte} {later : List Input} (h : s.inputs = .arrive bytes :: later) :
    step s = .next { s with inputs := later, rx := s.rx ++ bytes } :=
  step_of_inputs s h

theorem step_reset {b : Bool} {later : List Input} (h : s.inputs = .op (.reset b) :: later) :
    step s = .next (doReset b { s with inputs := later }) :=
  step_of_inputs s h

theorem step_drive {b : Bool} {later : List Input} (h : s.inputs = .driveRxOnly b :: later) :
    step s = if b = s.rxOnly then .next { s with inputs := later } else .refused .rxOnlyChangedWithoutReset :=
  step_of_inputs s h

theorem step_overlap {a b : HostOp} {later : List Input} (h : s.inputs = .overlap a b :: later) :
    step s = .refused .operationsOverlap :=
  step_of_inputs s h

/-- Every selector's SEND hands its frame to the transport (R110, R111). -/
theorem step_send_eq {sel : Nat} {later : List Input} (h : s.inputs = .op (.send sel) :: later) :
    step s = .next (encodeCommand sel { s with inputs := later }) :=
  (step_send h).trans (exec_selectorCommand sel _)

/-- Settles O44: the fields of the state RESET answers. -/
theorem resetOperation : Obligations.ResetOperation := by
  intro s b later h
  exact ⟨_, step_reset s h, rfl, rfl, rfl, rfl, rfl, rfl, rfl⟩

/-- Settles O45: the fields of the initial state. -/
theorem resetState : Obligations.ResetState := ⟨rfl, rfl, rfl⟩

/-- Settles O59: the two acts that are refused. -/
theorem meaninglessActsAreRefused : Obligations.MeaninglessActsAreRefused := by
  intro s later
  refine ⟨fun h => ?_, fun a b h => step_overlap s h⟩
  rw [step_drive s h, if_neg (Bool.not_ne_self s.rxOnly)]

/-- Settles O60: the steps that are no operation. -/
theorem arrivalsQueueAndIdleStepsHold : Obligations.ArrivalsQueueAndIdleStepsHold := by
  intro s later
  refine ⟨fun bytes h => step_arrive s h, fun h => ?_, step_idle s⟩
  rw [step_drive s h, if_pos rfl]

/-! ### The step of a TICK -/

/-- The queued bytes and the arrivals, if any, are stepped after the start of the tick. -/
theorem step_tick_of_ne_nil {now : Time} {arrivals : List Byte} {later : List Input}
    (h : s.inputs = .op (.tick now arrivals) :: later) (hne : s.rx ++ arrivals ≠ []) :
    step s = .next (feed (s.rx ++ arrivals) (tickStart now { s with inputs := later, rx := [] })) := by
  rw [step_tick h, if_neg hne]

/-- Settles O1: a frame run as an instruction is its bytes stepped in order. -/
theorem tickStepRunsTheDecodedFrame : Obligations.TickStepRunsTheDecodedFrame := by
  intro s now arrivals later i h hdec
  obtain ⟨front, hlen, hbytes, hexec⟩ := exec_of_decodeInbound s hdec
  rw [List.append_nil] at hbytes
  have hne : s.rx ++ arrivals ≠ [] := by
    rw [hbytes]
    exact List.ne_nil_of_length_eq_add_one hlen
  rw [step_tick_of_ne_nil s h hne, hbytes, hexec _ (by rw [tickStart_cfg])]

/-- A tick at the time of the last one finds nothing stale, and writes the timestamp that stands there. -/
theorem tickStart_lastRx_self (h : ClockInv s) : tickStart s.lastRx s = s := by
  have hstale : ¬ isStale s.lastRx s = true := by
    rw [isStale_iff, elapsed, subMod_self]
    exact fun ⟨_, hlt⟩ => Nat.not_lt_zero 500 hlt
  rw [tickStart_eq, if_neg hstale, setLastRx, clockCount_of_lt h]

/-- Settles O3: a command word is placed as the SEND of its selector, any other as the queue of a TICK at the time of the
last one. -/
theorem placedWordIsRunByTheNextStep : Obligations.PlacedWordIsRunByTheNextStep := by
  intro s nbits w i
  constructor
  · intro hdec
    obtain ⟨-, hdir, -⟩ := (decodeOutbound_eq_ok_iff_encode s.cfg).mp hdec
    obtain ⟨sel, hsel, rfl⟩ := exists_commandSelector hdir
    have hplace : s.withFetchWord nbits w = setInputs (.op (.send sel) :: s.inputs) s := by
      simp only [State.withFetchWord, placeWord, hdec, hsel]
    rw [hplace]
    exact step_send rfl
  · intro hclock hout hin
    have hplace : s.withFetchWord nbits w =
        setInputs (.op (.tick s.lastRx []) :: s.inputs) (setRx (tableBytes nbits w) s) := by
      unfold State.withFetchWord placeWord
      rcases hdec : decodeOutbound s.cfg (tableBytes nbits w) with e | r
      · simp only [hdec]
      · exact absurd hdec (hout r)
    have hqueue : decodeInbound s.cfg (tableBytes nbits w ++ []) = .ok (i, []) := by rw [List.append_nil, hin]
    rw [hplace, tickStepRunsTheDecodedFrame _ s.lastRx [] s.inputs i rfl hqueue]
    exact congrArg (exec i) (tickStart_lastRx_self { s with rx := [] } hclock)

/-! ### Legal runs -/

/-- A step of a legal outside answers a next state, from which the outside is still legal. -/
theorem step_of_legalInputs (h : legalInputs s.rxOnly s.inputs = true) :
    ∃ t, step s = .next t ∧ legalInputs t.rxOnly t.inputs = true := by
  rcases hi : s.inputs with _ | ⟨(⟨b⟩ | ⟨now, arrivals⟩ | ⟨sel⟩) | bytes | b | ⟨a, b⟩, later⟩ <;> rw [hi] at h
  · exact ⟨s, step_idle s hi, by rw [hi]; rfl⟩
  · exact ⟨_, step_reset s hi, h⟩
  · refine ⟨_, step_tick hi, ?_⟩
    split
    · exact h
    · rw [feed_rxOnly, feed_inputs, tickStart_rxOnly, tickStart_inputs]
      exact h
  · exact ⟨_, step_send_eq s hi, h⟩
  · exact ⟨_, step_arrive s hi, h⟩
  · obtain ⟨hb, hlater⟩ := Bool.and_eq_true_iff.mp h
    exact ⟨_, (step_drive s hi).trans (if_pos (beq_iff_eq.mp hb)), hlater⟩
  · cases h

/-- Settles O58: legality is kept by every step, so no step of the run is a stop. -/
theorem legalRunsNeverStop : Obligations.LegalRunsNeverStop := by
  intro n
  induction n with
  | zero => exact fun s _ => ⟨s, rfl⟩
  | succ n ih =>
    intro s h
    obtain ⟨t, hstep, ht⟩ := step_of_legalInputs s h
    obtain ⟨u, hrun⟩ := ih t ht
    exact ⟨u, (run_succ hstep).trans hrun⟩

/-! ### Start-up -/

/-- The frame of SET_QA, selector 2 (R114). -/
theorem commandFrame_two (cfg : Config) :
    (commandFrame cfg 2).toList = [0xFF, 0x01, 0x78, 0x41, 0x00, 0x00, 0x00, 0x00, 0x46] := by
  rw [commandFrame_eq]
  have hcs : neg8 (0x01 + opSwitchMode + subQa) = 0x46 := by decide
  exact congrArg (fun v : Byte => [0xFF, 0x01, 0x78, 0x41, 0x00, 0x00, 0x00, 0x00, v]) hcs

theorem txStream_append (l m : List Output) : txStream (l ++ m) = txStream l ++ txStream m :=
  List.flatMap_append

/-- Settles O51: the run is one RESET, followed in Active mode by the SEND of selector 2. -/
theorem startupWritesTheModeSetCommandInActiveOnly : Obligations.StartupWritesTheModeSetCommandInActiveOnly := by
  intro s b h
  cases b with
  | true =>
    have hs : s.inputs = .op (.reset true) :: [] := h
    refine ⟨doReset true { s with inputs := [] }, ?_, rfl, rfl, rfl, (List.append_nil _).symm⟩
    rw [hs]
    exact run_succ (step_reset s hs)
  | false =>
    have hs : s.inputs = .op (.reset false) :: [.op (.send 2)] := h
    refine ⟨encodeCommand 2 (doReset false { s with inputs := [] }), ?_, rfl, rfl, rfl, ?_⟩
    · rw [hs]
      exact (run_succ (step_reset s hs)).trans (run_succ (step_send_eq _ rfl))
    · refine (txStream_append s.outputs [.writeBytes (commandFrame s.cfg 2)]).trans ?_
      exact congrArg (txStream s.outputs ++ ·) ((List.append_nil _).trans (commandFrame_two s.cfg))

end Sys2Proof.Machine
end

section
/-! What every step keeps or leaves alone: the invariants of the frame attempt and of `last_rx`, the configuration, the
registers and the output history (R26 to R28, R41, R89). -/

namespace Sys2Proof.Machine

/-! ### A fact that every byte keeps -/

theorem feed_induction {P : State → Prop} (hbyte : ∀ s v, P s → P (rxStep v s)) (bytes : List Byte) {s : State}
    (h : P s) : P (feed bytes s) := by
  induction bytes generalizing s with
  | nil => exact h
  | cons v bytes ih => exact ih (hbyte s v h)

/-- What a step does to the registers and the ports, by the operation that did it: a RESET, a TICK with bytes, a SEND, or
none of these, and then only the receive queue and the inputs are touched. -/
theorem step_operations {s t : State} (h : step s = .next t) :
    (∃ b later, s.inputs = .op (.reset b) :: later ∧ t = doReset b (setInputs later s)) ∨
    (∃ now arrivals later, s.inputs = .op (.tick now arrivals) :: later ∧ s.rx ++ arrivals ≠ [] ∧
      t = feed (s.rx ++ arrivals) (tickStart now { s with inputs := later, rx := [] })) ∨
    (∃ sel later, s.inputs = .op (.send sel) :: later ∧ t = encodeCommand sel (setInputs later s)) ∨
    ((∀ sel later, s.inputs ≠ .op (.send sel) :: later) ∧ ∃ rx inputs, t = { s with rx := rx, inputs := inputs }) := by
  rcases step_cases h with ⟨hi, rfl⟩ | hreset | ⟨now, arrivals, later, hi, -⟩ | hsend | ⟨bytes, later, hi, rfl⟩ |
    ⟨later, hi, rfl⟩
  · exact .inr (.inr (.inr ⟨by simp [hi], t.rx, t.inputs, rfl⟩))
  · exact .inl hreset
  · by_cases hne : s.rx ++ arrivals = []
    · rw [step_tick hi, if_pos hne] at h
      cases h
      exact .inr (.inr (.inr ⟨by simp [hi], [], later, rfl⟩))
    · rw [step_tick_of_ne_nil s hi hne] at h
      cases h
      exact .inr (.inl ⟨now, arrivals, later, hi, hne, rfl⟩)
  · exact .inr (.inr (.inl hsend))
  · exact .inr (.inr (.inr ⟨by simp [hi], s.rx ++ bytes, later, rfl⟩))
  · exact .inr (.inr (.inr ⟨by simp [hi], s.rx, later, rfl⟩))

/-! ### The frame attempt -/

theorem attemptInv_of_cursor_zero {s : State} (h : s.cursor = 0) : AttemptInv s := by
  unfold AttemptInv
  rw [h]
  exact ⟨nofun, nofun⟩

/-- An accepted byte at offset 0 is a header and one at offset 1 a passing type; later bytes do not touch these two. -/
theorem attemptInv_rxStep (s : State) (v : Byte) (hinv : AttemptInv s) : AttemptInv (rxStep v s) := by
  obtain ⟨hheader, htype⟩ := hinv
  rcases rxStep_cases s v with ⟨h7, h0, h1, h⟩ | ⟨e, h⟩ | ⟨-, -, h⟩ <;> rw [h]
  · have hbuf : ∀ i : Offset, s.cursor ≠ i → (s.buf.set s.cursor v)[i] = s.buf[i] := fun i hne =>
      Vector.getElem_set_ne _ _ (Fin.val_ne_of_ne hne)
    constructor
    · intro _
      by_cases hk : s.cursor = 0
      · simpa [hk] using h0 hk
      · exact (hbuf 0 hk).trans (hheader (Fin.pos_iff_ne_zero.mpr hk))
    · intro hlt
      have hlt' : 1 < s.cursor.val + 1 := offset_succ_val s.cursor h7 ▸ hlt
      by_cases hk : s.cursor = 1
      · simpa [hk] using h1 hk
      · have hgt : 1 < s.cursor := by
          have := Fin.val_ne_of_ne hk
          exact Fin.lt_def.mpr (by simp at this ⊢; omega)
        exact (congrArg (typeOk s.cfg s.rxOnly) (hbuf 1 hk)).trans (htype hgt)
  · exact attemptInv_of_cursor_zero rfl
  · exact attemptInv_of_cursor_zero rfl

/-- The start of a tick gives up the attempt or leaves it alone. -/
theorem attemptInv_tickStart (s : State) (now : Time) (hinv : AttemptInv s) : AttemptInv (tickStart now s) := by
  rw [tickStart_eq]
  split
  · exact attemptInv_of_cursor_zero rfl
  · exact hinv

/-- Settles O52: the attempt by the kind of the step and each byte of a tick; `last_rx` is written reduced, or 0, or
not. -/
theorem stepKeepsInvariants : Obligations.StepKeepsInvariants := by
  intro s t h
  rcases step_operations h with ⟨b, later, hi, rfl⟩ | ⟨now, arrivals, later, hi, hne, rfl⟩ | ⟨sel, later, hi, rfl⟩ |
    ⟨hsend, rx, inputs, rfl⟩
  · exact ⟨fun _ => attemptInv_of_cursor_zero rfl, fun _ => Nat.two_pow_pos _⟩
  · constructor
    · exact fun hinv => feed_induction attemptInv_rxStep _ (attemptInv_tickStart _ now hinv)
    · intro _
      rw [ClockInv, feed_lastRx, feed_cfg, tickStart_lastRx, tickStart_cfg]
      exact clockCount_lt _ now
  · exact ⟨id, id⟩
  · exact ⟨id, id⟩

/-- Settles O53: no attempt is begun, and the count is 0. -/
theorem resetMeetsInvariants : Obligations.ResetMeetsInvariants :=
  ⟨attemptInv_of_cursor_zero rfl, Nat.two_pow_pos _⟩

/-! ### The configuration and the registers -/

/-- Settles O55: the frame lemmas of the tick, and RESET as the one step that writes RX_ONLY. -/
theorem configurationIsFixedBetweenResets : Obligations.ConfigurationIsFixedBetweenResets := by
  intro s t h
  rcases step_operations h with ⟨b, later, hi, rfl⟩ | ⟨now, arrivals, later, hi, hne, rfl⟩ | ⟨sel, later, hi, rfl⟩ |
    ⟨hsend, rx, inputs, rfl⟩
  · exact ⟨rfl, .inr ⟨b, later, hi, rfl⟩⟩
  · rw [feed_cfg, feed_rxOnly, tickStart_cfg, tickStart_rxOnly]
    exact ⟨rfl, .inl rfl⟩
  · exact ⟨rfl, .inl rfl⟩
  · exact ⟨rfl, .inl rfl⟩

/-- Settles O56: a tick with bytes, a RESET, or none of the registers written. -/
theorem whoWritesTheRegisters : Obligations.WhoWritesTheRegisters := by
  intro s t h
  rcases step_operations h with ⟨b, later, hi, rfl⟩ | ⟨now, arrivals, later, hi, hne, rfl⟩ | ⟨sel, later, hi, rfl⟩ |
    ⟨hsend, rx, inputs, rfl⟩
  · exact .inr (.inl ⟨b, later, hi, rfl, rfl⟩)
  · refine .inl ⟨now, arrivals, later, hi, hne, ?_⟩
    rw [feed_lastRx, tickStart_lastRx]
    rfl
  · exact .inr (.inr ⟨rfl, rfl, rfl⟩)
  · exact .inr (.inr ⟨rfl, rfl, rfl⟩)

/-! ### The output history -/

/-- The outputs of `t` are those of `s` with more behind them, no TX frame among the new ones. -/
def GrowsWithoutTx (s t : State) : Prop :=
  ∃ new, t.outputs = s.outputs ++ new ∧ ∀ f, .writeBytes f ∉ new

theorem GrowsWithoutTx.refl (s : State) : GrowsWithoutTx s s :=
  ⟨[], (List.append_nil _).symm, fun _ => List.not_mem_nil⟩

theorem GrowsWithoutTx.trans {s t u : State} (h : GrowsWithoutTx s t) (h' : GrowsWithoutTx t u) :
    GrowsWithoutTx s u := by
  obtain ⟨new, hout, htx⟩ := h
  obtain ⟨new', hout', htx'⟩ := h'
  refine ⟨new ++ new', by rw [hout', hout, List.append_assoc], fun f hf => ?_⟩
  exact (List.mem_append.mp hf).elim (htx f) (htx' f)

theorem growsWithoutTx_feed (bytes : List Byte) (s : State) : GrowsWithoutTx s (feed bytes s) :=
  feed_induction (P := GrowsWithoutTx s) (fun t v h => h.trans (rxStep_outputs t v)) bytes (.refl s)

theorem growsWithoutTx_tickStart (now : Time) (s : State) : GrowsWithoutTx s (tickStart now s) := by
  rw [tickStart_eq]
  split
  · exact ⟨[.event _], rfl, by simp⟩
  · exact .refl s

/-- Settles O57: SEND appends its frame, the start of a tick and its bytes append other acts only, and the other steps
append nothing, a tick without bytes among them. -/
theorem portsAreReachedByTheirOperationsOnly : Obligations.PortsAreReachedByTheirOperationsOnly := by
  intro s t h
  rcases step_operations h with ⟨b, later, hi, rfl⟩ | ⟨now, arrivals, later, hi, hne, rfl⟩ | ⟨sel, later, hi, rfl⟩ |
    ⟨hsend, rx, inputs, rfl⟩
  · exact ⟨[], (List.append_nil _).symm, .inr (.inr ⟨by simp [hi], by simp [hi], rfl⟩)⟩
  · obtain ⟨new, hout, htx⟩ :=
      (growsWithoutTx_tickStart now { s with inputs := later, rx := [] }).trans (growsWithoutTx_feed (s.rx ++ arrivals) _)
    exact ⟨new, hout, .inr (.inl ⟨⟨now, arrivals, later, hi⟩, htx⟩)⟩
  · exact ⟨_, rfl, .inl ⟨⟨sel, later, hi⟩, _, rfl⟩⟩
  · refine ⟨[], (List.append_nil _).symm, .inr ?_⟩
    by_cases htick : ∃ now arrivals later, s.inputs = .op (.tick now arrivals) :: later
    · exact .inl ⟨htick, fun _ => List.not_mem_nil⟩
    · exact .inr ⟨hsend, fun now arrivals later hi => htick ⟨now, arrivals, later, hi⟩, rfl⟩

/-! ### Bytes split over ticks -/

/-- A tick that finds an empty queue steps its arrivals. -/
theorem step_tick_arrivals {s : State} {now : Time} {bytes : List Byte} {later : List Input}
    (h : s.inputs = .op (.tick now bytes) :: later) (hrx : s.rx = []) (hne : bytes ≠ []) :
    step s = .next (feed bytes (tickStart now (setInputs later s))) := by
  have hqueue : s.rx ++ bytes = bytes := by rw [hrx, List.nil_append]
  have hstart : ({ s with inputs := later, rx := [] } : State) = setInputs later s :=
    setRx_of_eq (setInputs later s) hrx
  rw [step_tick_of_ne_nil s h (hqueue.symm ▸ hne), hqueue, hstart]

theorem setInputs_setInputs (s : State) (l m : List Input) : setInputs l (setInputs m s) = setInputs l s := rfl

theorem tickStart_setInputs (s : State) (now : Time) (l : List Input) :
    tickStart now (setInputs l s) = setInputs l (tickStart now s) := by
  rw [tickStart_eq, tickStart_eq, show isStale now (setInputs l s) = isStale now s from rfl]
  split <;> rfl

theorem feed_setInputs (s : State) (bytes : List Byte) (l : List Input) :
    feed bytes (setInputs l s) = setInputs l (feed bytes s) := by
  refine (feed_withSurroundings s bytes s.lastRx s.rx l).trans ?_
  rw [withSurroundings, ← feed_lastRx s bytes, ← feed_rx s bytes]
  rfl

theorem feed_setLastRx (s : State) (bytes : List Byte) (now : Time) :
    feed bytes (setLastRx now s) = setLastRx now (feed bytes s) := by
  refine (feed_withSurroundings s bytes (clockCount s.cfg now) s.rx s.inputs).trans ?_
  rw [withSurroundings, ← feed_cfg s bytes, ← feed_rx s bytes, ← feed_inputs s bytes]
  rfl

/-- At most 500 ms after the last timestamp nothing is stale, and the tick begins with the new timestamp. -/
theorem tickStart_of_elapsed_le (s : State) (now : Time) (h : elapsed now s ≤ 500) :
    tickStart now s = setLastRx now s := by
  have hstale : ¬ isStale now s = true := by
    rw [isStale_iff]
    exact fun ⟨_, hlt⟩ => Nat.not_lt.mpr h hlt
  rw [tickStart_eq, if_neg hstale]

/-- Settles O50: the second tick finds nothing stale, so it steps its bytes from where the first one stopped. -/
theorem splitTicksAgreeWithOne : Obligations.SplitTicksAgreeWithOne := by
  intro s t1 t2 as bs later hrx has hbs hgap
  generalize hmid : feed as (tickStart t1 (setInputs later s)) = mid
  have hlast : mid.lastRx = clockCount s.cfg t1 := by rw [← hmid, feed_lastRx, tickStart_lastRx]; rfl
  have hcfg : mid.cfg = s.cfg := by rw [← hmid, feed_cfg, tickStart_cfg]; rfl
  have hinputs : setInputs later mid = mid := by rw [← hmid, ← feed_setInputs, ← tickStart_setInputs]; rfl
  have hempty : mid.rx = [] := by rw [← hmid, feed_rx, tickStart_rx]; exact hrx
  have hnear : elapsed t2 mid ≤ 500 := by rw [elapsed, hlast, hcfg, subMod_clockCount]; exact hgap
  refine ⟨setInputs (.op (.tick t2 bs) :: later) mid, setLastRx t2 (feed bs mid), ?_, ?_, ?_⟩
  · refine (step_tick_arrivals (s := setInputs _ s) rfl hrx has).trans ?_
    rw [← hmid, ← feed_setInputs, ← tickStart_setInputs, setInputs_setInputs, setInputs_setInputs]
  · refine (step_tick_arrivals (s := setInputs _ mid) rfl hempty hbs).trans ?_
    rw [setInputs_setInputs, hinputs, tickStart_of_elapsed_le mid t2 hnear, feed_setLastRx]
  · have hstamp : (feed bs mid).lastRx = t1 % 2 ^ s.cfg.clockW := (feed_lastRx mid bs).trans hlast
    refine (step_tick_arrivals (s := setInputs _ s) rfl hrx (List.append_ne_nil_of_left_ne_nil has bs)).trans ?_
    rw [feed_append, setInputs_setInputs, hmid, ← hstamp]
    rfl

end Sys2Proof.Machine
end

section
/-! No stale buffer byte is ever read (R24): states that differ only in bytes at or above the cursor stay so under every
operation. -/

namespace Sys2Proof.Machine

/-- The relation as a buffer that takes the place of the state's own and agrees with it below the cursor. -/
theorem sameButStaleBytes_iff {s t : State} :
    SameButStaleBytes s t ↔ ∃ b : Frame, t = { s with buf := b } ∧ ∀ i : Offset, i < s.cursor → b[i] = s.buf[i] := by
  constructor
  · exact fun ⟨ht, hbelow⟩ => ⟨t.buf, ht, hbelow⟩
  · rintro ⟨b, rfl, hbelow⟩
    exact ⟨rfl, hbelow⟩

theorem SameButStaleBytes.refl (s : State) : SameButStaleBytes s s := ⟨rfl, fun _ _ => rfl⟩

/-- With the cursor at 0 every buffer byte is stale. -/
theorem sameButStaleBytes_of_cursor_zero {s : State} (h : s.cursor = 0) (b : Frame) :
    SameButStaleBytes s { s with buf := b } :=
  ⟨rfl, fun i hi => absurd hi (h ▸ Fin.not_lt_zero i)⟩

/-- One byte makes the byte at the old cursor equal, and the cursor passes no other. -/
theorem SameButStaleBytes.rxStep {s t : State} (h : SameButStaleBytes s t) (v : Byte) :
    SameButStaleBytes (rxStep v s) (rxStep v t) := by
  obtain ⟨b, rfl, hbelow⟩ := sameButStaleBytes_iff.mp h
  refine sameButStaleBytes_iff.mpr ⟨b.set s.cursor v, ?_, fun i hi => ?_⟩
  · rw [rxStep_eq_byteResult, rxStep_eq_byteResult]
    exact congrArg (applyResult { s with buf := b }) (byteResult_congr_below v hbelow)
  · rw [rxStep_buf]
    by_cases hk : i = s.cursor
    · subst hk
      exact (Vector.getElem_set_self _).trans (Vector.getElem_set_self _).symm
    · have hlt : i < s.cursor := by
        have hle : i.val < s.cursor.val + 1 := Nat.lt_of_lt_of_le hi (rxStep_cursor_le s v)
        exact Fin.lt_def.mpr (Nat.lt_of_le_of_ne (Nat.le_of_lt_succ hle) (Fin.val_ne_of_ne hk))
      have hne := (Fin.val_ne_of_ne hk).symm
      exact ((Vector.getElem_set_ne _ _ hne).trans (hbelow i hlt)).trans (Vector.getElem_set_ne _ _ hne).symm

theorem SameButStaleBytes.feed {s t : State} (h : SameButStaleBytes s t) (bytes : List Byte) :
    SameButStaleBytes (feed bytes s) (feed bytes t) := by
  induction bytes generalizing s t with
  | nil => exact h
  | cons v bytes ih => exact ih (h.rxStep v)

/-- The start of a tick reads the cursor and the timestamp alone. -/
theorem SameButStaleBytes.tickStart {s t : State} (h : SameButStaleBytes s t) (now : Time) :
    SameButStaleBytes (tickStart now s) (tickStart now t) := by
  obtain ⟨b, rfl, hbelow⟩ := sameButStaleBytes_iff.mp h
  rw [tickStart_eq, tickStart_eq, show isStale now { s with buf := b } = isStale now s from rfl]
  split
  · exact sameButStaleBytes_of_cursor_zero rfl b
  · exact ⟨rfl, hbelow⟩

/-- Settles O54: each input does the same to both states, the bytes of a tick one by one. -/
theorem staleBufferBytesAreNeverRead : Obligations.StaleBufferBytesAreNeverRead := by
  intro s t h
  obtain ⟨b, rfl, hbelow⟩ := sameButStaleBytes_iff.mp h
  obtain ⟨inputs, hi⟩ : ∃ inputs, s.inputs = inputs := ⟨_, rfl⟩
  rcases inputs with _ | ⟨(⟨rx⟩ | ⟨now, arrivals⟩ | ⟨sel⟩) | bytes | rx | ⟨x, y⟩, later⟩
  · rw [step_idle s hi, step_idle { s with buf := b } hi]
    exact h
  · rw [step_reset s hi, step_reset { s with buf := b } hi]
    exact .refl _
  · have hlater : SameButStaleBytes { s with inputs := later, rx := [] } { s with buf := b, inputs := later, rx := [] } :=
      ⟨rfl, hbelow⟩
    rw [step_tick hi, step_tick (s := { s with buf := b }) hi]
    by_cases hne : s.rx ++ arrivals = []
    · rw [if_pos hne, if_pos hne]
      exact hlater
    · rw [if_neg hne, if_neg hne]
      exact (hlater.tickStart now).feed _
  · rw [step_send_eq s hi, step_send_eq { s with buf := b } hi]
    exact ⟨rfl, hbelow⟩
  · rw [step_arrive s hi, step_arrive { s with buf := b } hi]
    exact ⟨rfl, hbelow⟩
  · rw [step_drive s hi, step_drive { s with buf := b } hi]
    by_cases hrx : rx = s.rxOnly
    · rw [if_pos hrx, if_pos hrx]
      exact ⟨rfl, hbelow⟩
    · rw [if_neg hrx, if_neg hrx]
      rfl
  · rw [step_overlap s hi, step_overlap { s with buf := b } hi]
    rfl

end Sys2Proof.Machine
end

section
/-! The checksum as arithmetic (R100 to R106): the reduced sum, the test as a sum of zero, and the frames on which the
readings of CSUM_LAST agree. -/

namespace Sys2Proof.Machine

/-! ### The value of the checksum -/

/-- The sum of the offsets the checksum reads, in unbounded integers, in either reading of CSUM_LAST (R100). -/
theorem checksum_toNat (cfg : Config) (f : Frame) : (checksum cfg f).toNat =
    (256 - (f[1].toNat + f[2].toNat + f[3].toNat + f[4].toNat + f[5].toNat + f[6].toNat +
      if cfg.csumLast = .seven then f[7].toNat else 0) % 256) % 256 := by
  obtain ⟨b0, b1, b2, b3, b4, b5, b6, b7, b8, rfl⟩ := frame_eq_nine f
  rw [checksum, neg8_toNat, sum8_toNat]
  rcases cfg.csumLast with _ | _ <;> simp [CsumLast.toNat, Nat.add_assoc]

/-- Settles O19: with CSUM_LAST = 7 offset 7 is among the summed ones. -/
theorem checksumIsTheReducedSum : Obligations.ChecksumIsTheReducedSum := by
  intro cfg f h
  rw [checksum_toNat, if_pos h]

/-- Settles O20: the stored byte equals the negated sum exactly when both add up to a multiple of 256. -/
theorem checksumTestIsZeroSum : Obligations.ChecksumTestIsZeroSum := by
  intro cfg f
  rw [checksumOk_iff, ← BitVec.toNat_inj, checksum_toNat]
  have h8 := f[8].isLt
  omega

/-! ### Single-byte errors -/

/-- Whether the checksum test is about the byte at an offset: never at the header's, and at offset 7 with CSUM_LAST = 7
alone (R100). -/
def tested (cfg : Config) (i : Offset) : Bool := i != 0 && (cfg.csumLast == .seven || i != 7)

theorem tested_iff {cfg : Config} {i : Offset} :
    tested cfg i = true ↔ 1 ≤ i.val ∧ (cfg.csumLast = .six → i ≠ 7) := by
  have hpos : 1 ≤ i.val ↔ i ≠ 0 := Fin.pos_iff_ne_zero
  rw [hpos]
  rcases hc : cfg.csumLast with _ | _ <;> simp [tested, hc]

/-- The sum of the bytes the checksum test is about. -/
def testSum (cfg : Config) (f : Frame) : Nat := ∑ i : Offset, if tested cfg i then f[i].toNat else 0

theorem testSum_eq (cfg : Config) (f : Frame) : testSum cfg f =
    f[1].toNat + f[2].toNat + f[3].toNat + f[4].toNat + f[5].toNat + f[6].toNat +
      (if cfg.csumLast = .seven then f[7].toNat else 0) + f[8].toNat := by
  obtain ⟨b0, b1, b2, b3, b4, b5, b6, b7, b8, rfl⟩ := frame_eq_nine f
  rcases hc : cfg.csumLast with _ | _ <;> simp [testSum, tested, hc, Fin.sum_univ_succ, Nat.add_assoc]

/-- Changing a byte the test is about changes the sum by the difference of the bytes. -/
theorem testSum_set {cfg : Config} {i : Offset} (hi : tested cfg i = true) (f : Frame) (v : Byte) :
    testSum cfg (f.set i v) + f[i].toNat = testSum cfg f + v.toNat := by
  have hrest : ∑ j ∈ Finset.univ.erase i, (if tested cfg j then (f.set i v)[j].toNat else 0) =
      ∑ j ∈ Finset.univ.erase i, if tested cfg j then f[j].toNat else 0 := by
    refine Finset.sum_congr rfl fun j hj => ?_
    have hne : i.val ≠ j.val := fun h => Finset.ne_of_mem_erase hj (Fin.ext h.symm)
    rw [show (f.set i v)[j] = f[j] from Vector.getElem_set_ne _ _ hne]
  have hself : (f.set i v)[i] = v := Vector.getElem_set_self _
  rw [testSum, testSum, ← Finset.add_sum_erase _ _ (Finset.mem_univ i), hrest,
    ← Finset.add_sum_erase _ (fun j => if tested cfg j then f[j].toNat else 0) (Finset.mem_univ i), if_pos hi, if_pos hi,
    hself]
  omega

/-- Settles O21: two sums that differ by less than 256 cannot both be multiples of 256. -/
theorem singleByteErrorIsCaught : Obligations.SingleByteErrorIsCaught := by
  intro cfg f i v hseven hok hpos hv
  have hi : tested cfg i = true := tested_iff.mpr ⟨hpos, hseven⟩
  have hne : v.toNat ≠ f[i].toNat := fun h => hv (BitVec.eq_of_toNat_eq h)
  have hset := testSum_set hi f v
  rw [← Bool.not_eq_true, checksumTestIsZeroSum, ← testSum_eq]
  rw [checksumTestIsZeroSum, ← testSum_eq] at hok
  have hlt := v.isLt
  have hlt' := f[i].isLt
  omega

/-! ### The two readings of CSUM_LAST -/

/-- Settles O23: the sums differ by the byte at offset 7, which is less than 256. -/
theorem checksumReadingsAgreeOnZeroReserved : Obligations.ChecksumReadingsAgreeOnZeroReserved := by
  intro cfg f
  have h7 := f[7].isLt
  rw [← BitVec.toNat_inj, ← BitVec.toNat_inj (x := f[7]), checksum_toNat, checksum_toNat, if_neg nofun, if_pos rfl]
  change _ ↔ f[7].toNat = 0
  omega

/-! ### Which values it takes -/

/-- Settles O24: one payload byte after the type makes the sum what it has to be; and the header is not summed. -/
theorem checksumTakesEveryValue : Obligations.ChecksumTakesEveryValue := by
  intro cfg
  constructor
  · intro header type c
    refine ⟨#v[header, type, -c - type, 0, 0, 0, 0, 0, 0], rfl, rfl, ?_⟩
    rcases hc : cfg.csumLast with _ | _
    · rw [checksum_nine_six _ _ _ _ _ _ _ _ _ _ hc, neg8_eq_neg]
      simp
    · rw [checksum_nine_seven _ _ _ _ _ _ _ _ _ _ hc, neg8_eq_neg]
      simp
  · intro f h
    exact checksum_congr cfg _ _ fun i h1 _ => Vector.getElem_set_ne _ _ (Nat.ne_of_lt h1)

/-! ### Every length (R106) -/

/-- Summing a stretch of a list from offset 1 on is summing over its offsets. -/
theorem sum_take_drop_one (b : List Byte) (n : Nat) :
    (((b.drop 1).take n).map BitVec.toNat).sum = ∑ i ∈ Finset.Icc 1 n, (b.getD i 0).toNat := by
  induction n with
  | zero => simp
  | succ n ih =>
    rw [Finset.sum_Icc_succ_top (by omega), ← ih, List.take_add_one, List.map_append, List.sum_append, List.getElem?_drop,
      Nat.add_comm 1 n, List.getD_eq_getElem?_getD]
    rcases b[n + 1]? with _ | v <;> simp

theorem checksumLen_of_le {b : List Byte} {len : Nat} (h2 : 2 ≤ len) (hlen : len ≤ b.length) :
    checksumLen b len = some (neg8 (sum8 ((b.drop 1).take (len - 2)))) :=
  if_pos ⟨h2, hlen⟩

/-- Settles O25: the bytes between offset 1 and len - 2 are the stretch that is summed, empty at length 2. -/
theorem checksumAtEveryLength : Obligations.ChecksumAtEveryLength := by
  intro cfg f b len
  refine ⟨fun h2 hlen => ⟨_, checksumLen_of_le h2 hlen, ?_⟩, fun h2 => ?_, fun h => ?_, fun h => ?_⟩
  · rw [neg8_toNat, sum8_toNat, sum_take_drop_one]
  · rw [checksumLen_of_le (le_refl 2) h2, Nat.sub_self, List.take_zero]
    rfl
  · exact if_neg fun ⟨h2, hlen⟩ => by omega
  · rw [checksumLen_of_le (by decide) (by simp), checksum, h]
    rfl

end Sys2Proof.Machine
end

section
/-! The type test as built (R84), the reading as a number (R64, R120), and the frame a selector builds (R110, R116). -/

namespace Sys2Proof.Machine

theorem typeOk_of_asBuilt {cfg : Config} (h : cfg.typeCheck = .asBuilt) (rxOnly : Bool) (v : Byte) :
    typeOk cfg rxOnly v = typeOkAsBuilt cfg rxOnly v := by
  rw [typeOk, h]

/-- Settles O12: the test fails when the constant the conditional yields is zero; 0x86 is not. -/
theorem asBuiltTypeTest : Obligations.AsBuiltTypeTest := by
  intro cfg rxOnly v h
  rw [typeOk_of_asBuilt h, typeOkAsBuilt, bne_eq_false_iff_eq]
  by_cases hv : v = if rxOnly then 0x01 else 0x00
  · rw [if_pos (beq_iff_eq.mpr hv)]
    exact ⟨fun hg => ⟨hg, hv⟩, fun ⟨hg, _⟩ => hg⟩
  · rw [if_neg (mt beq_iff_eq.mp hv)]
    exact ⟨fun ha => absurd ha (by decide), fun ⟨_, hv'⟩ => absurd hv' hv⟩

/-- Settles O27: the value of the joined word, at most 255 * 256 + 255. -/
theorem readingIsHighTimes256PlusLow : Obligations.ReadingIsHighTimes256PlusLow := by
  intro hi lo
  exact ⟨rawOf_toNat hi lo, Nat.le_of_lt_succ (rawOf hi lo).isLt⟩

/-- Settles O29: Extract depends on the frame by its reading alone, and the reading on the type and the chosen bytes. -/
theorem unchosenBytesHaveNoEffect : Obligations.UnchosenBytesHaveNoEffect := by
  intro f g s htype hhi hlo
  have hraw : frameRaw f = frameRaw g := by
    rw [frameRaw, hhi, hlo]
    simp only [htype]
    rfl
  rw [extract_eq, extract_eq, extractOutputs, extractOutputs, hraw]

/-- The built frame is stamped last (R110). -/
theorem commandFrame_eq_stamp (cfg : Config) (sel : Nat) : commandFrame cfg sel =
    stamp cfg #v[headerSentinel, sendMarker, (opSub cfg sel).1, (opSub cfg sel).2, 0x00, 0x00, 0x00, 0x00, 0x00] := rfl

/-- Settles O35: byte for byte the encoding of the selector's command, and stamped. -/
theorem everyCommandFrameIsItsTableRow : Obligations.EveryCommandFrameIsItsTableRow := by
  intro cfg sel f
  have hbytes : f = #v[0xFF, 0x01, (opSub cfg sel).1, (opSub cfg sel).2, 0x00, 0x00, 0x00, 0x00,
      neg8 (0x01 + (opSub cfg sel).1 + (opSub cfg sel).2)] := commandFrame_eq cfg sel
  have hok : checksumOk cfg f = true :=
    (congrArg (checksumOk cfg) (commandFrame_eq_stamp cfg sel)).trans ((checksumOk_iff cfg _).mpr (checksum_stamp cfg _))
  refine ⟨?_, ?_, ?_, ?_, ?_, ?_, ?_, hok⟩
  · rw [hbytes, encode_selectorCommand]
    rfl
  all_goals
    rw [hbytes]
    rfl

end Sys2Proof.Machine
end

section
/-! Whole frames (R66, R89, R121): the nine bytes of a frame that meet the decoder at cursor 0, and what the bytes of a
frame that is out of step cannot do. -/

namespace Sys2Proof.Machine

variable (s : State)

/-! ### Nine bytes from cursor 0 -/

/-- The header and the type of a frame come before its payload (R61). -/
theorem feed_inboundFrame_toList (type : Byte) (p : Payload) :
    feed (inboundFrame type p).toList s = feed (payloadBytes p) (rxStep type (rxStep headerSentinel s)) := by
  have hbytes : (inboundFrame type p).toList = headerSentinel :: type :: payloadBytes p := rfl
  rw [hbytes, feed_cons, feed_cons]

/-- A header and a type byte from cursor 0 (R81, R82). -/
theorem rxStep_header_type (type : Byte) (hk : s.cursor = 0) :
    rxStep type (rxStep headerSentinel s) =
      if typeOk s.cfg s.rxOnly type then
        { s with buf := (s.buf.set 0 headerSentinel).set 1 type, cursor := 2 }
      else
        { s with buf := (s.buf.set 0 headerSentinel).set 1 type, cursor := 0,
                 outputs := s.outputs ++ [.event (.badType type)] } := by
  have hheader : rxStep headerSentinel s = { s with buf := s.buf.set 0 headerSentinel, cursor := 1 } :=
    (headerStep s headerSentinel hk).trans (if_pos rfl)
  rw [hheader]
  exact typeStep { s with buf := s.buf.set 0 headerSentinel, cursor := 1 } type rfl

/-- The six untested bytes before the checksum byte (R85, R86). -/
theorem feed_middle (b2 b3 b4 b5 b6 b7 : Byte) (hk : s.cursor = 2) :
    feed [b2, b3, b4, b5, b6, b7] s = { s with
      buf := (((((s.buf.set 2 b2).set 3 b3).set 4 b4).set 5 b5).set 6 b6).set 7 b7, cursor := 8 } := by
  obtain ⟨cfg, rxOnly, buf, cursor, lastRx, rx, outputs, inputs⟩ := s
  obtain rfl : cursor = 2 := hk
  simp [rxStep_middle]

/-- What a frame puts out whose type passes: the reading is handed over when the checksum byte matches (R87). -/
def frameOutputs (cfg : Config) (f : Frame) : List Output :=
  if f[8] = checksum cfg f then extractOutputs f else [.event (.badChecksum f[8] (checksum cfg f))]

/-- The ninth byte completes the frame, whatever the outcome (R87). -/
theorem rxStep_last (v : Byte) (hk : s.cursor = 8) :
    rxStep v s = { s with buf := s.buf.set 8 v, cursor := 0,
                          outputs := s.outputs ++ frameOutputs s.cfg (s.buf.set 8 v) } := by
  have hv : (s.buf.set 8 v)[8] = v := Vector.getElem_set_self _
  rw [checksumStep s v hk, frameOutputs, hv]
  by_cases hc : checksum s.cfg (s.buf.set 8 v) = v
  · rw [if_pos hc, if_pos hc.symm, extract_eq]
  · rw [if_neg hc, if_neg (Ne.symm hc)]

theorem set_nine (buf : Frame) (b0 b1 b2 b3 b4 b5 b6 b7 b8 : Byte) :
    (((((((((buf.set 0 b0).set 1 b1).set 2 b2).set 3 b3).set 4 b4).set 5 b5).set 6 b6).set 7 b7).set 8 b8) =
      #v[b0, b1, b2, b3, b4, b5, b6, b7, b8] := by
  obtain ⟨c0, c1, c2, c3, c4, c5, c6, c7, c8, rfl⟩ := frame_eq_nine buf
  rfl

/-- A frame with a header and a passing type, from cursor 0: its nine bytes are stored and judged as a whole. -/
theorem feed_inboundFrame (type : Byte) (p : Payload) (hk : s.cursor = 0)
    (htype : typeOk s.cfg s.rxOnly type = true) :
    feed (inboundFrame type p).toList s = { s with
      buf := inboundFrame type p, cursor := 0
      outputs := s.outputs ++ frameOutputs s.cfg (inboundFrame type p) } := by
  have hbytes : payloadBytes p = [p.p0, p.p1, p.p2, p.p3, p.p4, p.r7] ++ [p.cs] := rfl
  rw [feed_inboundFrame_toList, rxStep_header_type s type hk, if_pos htype, hbytes, feed_append,
    feed_middle _ _ _ _ _ _ _ rfl, feed_cons, feed_nil, rxStep_last _ _ rfl]
  simp only [set_nine]
  rfl

/-- A frame that starts with the header is an inbound frame of its type. -/
theorem eq_inboundFrame_of_header {f : Frame} (h : f[0] = headerSentinel) : ∃ p, f = inboundFrame f[1] p := by
  obtain ⟨b0, b1, b2, b3, b4, b5, b6, b7, b8, rfl⟩ := frame_eq_nine f
  obtain rfl : b0 = headerSentinel := h
  exact ⟨⟨b2, b3, b4, b5, b6, b7, b8⟩, rfl⟩

theorem feed_frame (f : Frame) (hk : s.cursor = 0) (hheader : f[0] = headerSentinel)
    (htype : typeOk s.cfg s.rxOnly f[1] = true) :
    feed f.toList s = { s with buf := f, cursor := 0, outputs := s.outputs ++ frameOutputs s.cfg f } := by
  obtain ⟨p, hf⟩ := eq_inboundFrame_of_header hheader
  rw [hf]
  exact feed_inboundFrame s f[1] p hk htype

/-! ### The frames as instructions (R66) -/

/-- Settles O36: each kind of frame is fed to the decoder byte by byte. -/
theorem inboundFrameIsNineSteps : Obligations.InboundFrameIsNineSteps := by
  intro s p type nine
  have hnine : ∀ type, feedFrame type p s = nine type := fun type => by
    simp only [feedFrame, feed_inboundFrame_toList, payloadBytes, feed_cons, feed_nil, nine]
  exact ⟨congrArg Host.Outcome.next (hnine opAnswer), congrArg Host.Outcome.next (hnine s.cfg.gasTypeCo),
    congrArg Host.Outcome.next (hnine type)⟩

/-- What a frame with a passing type puts out, once its reading is known. -/
theorem frameOutputs_inboundFrame (cfg : Config) (type : Byte) (p : Payload) {raw : Raw}
    (hraw : frameRaw (inboundFrame type p) = raw) : frameOutputs cfg (inboundFrame type p) =
      if p.cs = checksum cfg (inboundFrame type p) then
        (if raw = 0 then [.statusClear] else [.statusClear, .publish raw])
      else [.event (.badChecksum p.cs (checksum cfg (inboundFrame type p)))] := by
  rw [frameOutputs, extractOutputs_of_frameRaw hraw]
  rfl

/-- The reading of a frame of type 0x86 stands at offsets 4 and 5 (R62). -/
theorem frameRaw_inboundFrame_answer (p : Payload) : frameRaw (inboundFrame opAnswer p) = p.p2 ++ p.p3 :=
  (frameRaw_of_answer rfl).trans (rawOf_eq_append _ _)

/-- The reading of a frame of any other type stands at offsets 2 and 3 (R62). -/
theorem frameRaw_inboundFrame_other {type : Byte} (p : Payload) (h : type ≠ opAnswer) :
    frameRaw (inboundFrame type p) = p.p0 ++ p.p1 :=
  (frameRaw_of_not_answer (f := inboundFrame type p) h).trans (rawOf_eq_append _ _)

/-- A frame with a passing type, from cursor 0, whose reading is known: everything that changes. -/
theorem feedFrame_of_typeOk (type : Byte) (p : Payload) {raw : Raw} (hk : s.cursor = 0)
    (htype : typeOk s.cfg s.rxOnly type = true) (hraw : frameRaw (inboundFrame type p) = raw) :
    feedFrame type p s = { s with
      buf := inboundFrame type p, cursor := 0
      outputs := s.outputs ++
        if p.cs = checksum s.cfg (inboundFrame type p) then
          (if raw = 0 then [.statusClear] else [.statusClear, .publish raw])
        else [.event (.badChecksum p.cs (checksum s.cfg (inboundFrame type p)))] } := by
  rw [feedFrame, feed_inboundFrame s type p hk htype, frameOutputs_inboundFrame s.cfg type p hraw]

/-- Settles O37: a frame of type 0x86, read at offsets 4 and 5. -/
theorem expectedAnswerFrameResult : Obligations.ExpectedAnswerFrameResult := by
  intro s p hk htype f
  exact congrArg Host.Outcome.next (feedFrame_of_typeOk s opAnswer p hk htype (frameRaw_inboundFrame_answer p))

/-- Settles O38: a frame of type GAS_TYPE_CO, whose offsets are those of an answer frame when the two types coincide. -/
theorem expectedBroadcastFrameResult : Obligations.ExpectedBroadcastFrameResult := by
  intro s p hk htype f raw
  have hraw : frameRaw (inboundFrame s.cfg.gasTypeCo p) = raw := by
    by_cases hg : s.cfg.gasTypeCo = opAnswer
    · rw [show raw = p.p2 ++ p.p3 from if_pos hg, hg]
      exact frameRaw_inboundFrame_answer p
    · rw [show raw = p.p0 ++ p.p1 from if_neg hg]
      exact frameRaw_inboundFrame_other p hg
  exact congrArg Host.Outcome.next (feedFrame_of_typeOk s _ p hk htype hraw)

/-- Settles O39: a frame of a type other than 0x86, read at offsets 2 and 3. -/
theorem passingOtherFrameResult : Obligations.PassingOtherFrameResult := by
  intro s type p hk htype hne f
  exact congrArg Host.Outcome.next (feedFrame_of_typeOk s type p hk htype (frameRaw_inboundFrame_other p hne))

/-! ### Bytes that complete no frame -/

theorem sinkCalls_append (l m : List Output) : sinkCalls (l ++ m) = sinkCalls l ++ sinkCalls m :=
  List.filter_append l m

@[simp] theorem sinkCalls_append_event (l : List Output) (e : Event) : sinkCalls (l ++ [.event e]) = sinkCalls l :=
  (sinkCalls_append l [.event e]).trans (List.append_nil _)

/-- Only a byte at cursor 8 reaches the sink. -/
theorem sinkCalls_rxStep (v : Byte) (hk : s.cursor ≠ 8) : sinkCalls (rxStep v s).outputs = sinkCalls s.outputs := by
  rcases rxStep_cases s v with ⟨-, -, -, h⟩ | ⟨e, h⟩ | ⟨h8, -, -⟩
  · rw [h]
  · rw [h]
    exact sinkCalls_append_event s.outputs e
  · exact absurd h8 hk

/-- Bytes too few to complete the frame begun make no sink call, whatever they are. -/
theorem sinkCalls_feed_of_le (bytes : List Byte) (h : s.cursor.val + bytes.length ≤ 8) :
    sinkCalls (feed bytes s).outputs = sinkCalls s.outputs := by
  induction bytes generalizing s with
  | nil => rfl
  | cons v bytes ih =>
    rw [List.length_cons] at h
    have hcursor := rxStep_cursor_le s v
    have hk : s.cursor ≠ 8 := by
      rintro hk
      rw [hk] at h
      simp at h
    rw [feed_cons, ih _ (by omega), sinkCalls_rxStep s v hk]

theorem txStream_eq_of_growsWithoutTx {s t : State} (h : GrowsWithoutTx s t) :
    txStream t.outputs = txStream s.outputs := by
  obtain ⟨new, hout, htx⟩ := h
  have hnew : txStream new = [] := by
    refine List.flatMap_eq_nil_iff.mpr fun o ho => ?_
    cases o with
    | writeBytes f => exact absurd ho (htx f)
    | statusClear | publish | event => rfl
  rw [hout, txStream_append, hnew, List.append_nil]

/-- A header and a failing type from cursor 0: the frame attempt is given up at the type (R82). -/
theorem rxStep_header_type_rejected (type : Byte) (hk : s.cursor = 0) (htype : typeOk s.cfg s.rxOnly type = false) :
    rxStep type (rxStep headerSentinel s) =
      { s with buf := (s.buf.set 0 headerSentinel).set 1 type, cursor := 0,
               outputs := s.outputs ++ [.event (.badType type)] } := by
  rw [rxStep_header_type s type hk, if_neg (by simp [htype])]

/-- Settles O40: after the rejected type seven bytes are left, too few to complete a frame from cursor 0. -/
theorem unexpectedTypeFramePublishesNothing : Obligations.UnexpectedTypeFramePublishesNothing := by
  intro s i type p hk htype hkind
  have hexec : exec i s = .next (feedFrame type p s) := by
    rcases hkind with ⟨rfl, rfl⟩ | ⟨rfl, rfl⟩ | rfl <;> rfl
  have hfeed : feedFrame type p s = feed (payloadBytes p) { s with
      buf := (s.buf.set 0 0xFF).set 1 type, cursor := 0, outputs := s.outputs ++ [.event (.badType type)] } :=
    (feed_inboundFrame_toList s type p).trans
      (congrArg (feed (payloadBytes p)) (rxStep_header_type_rejected s type hk htype))
  refine ⟨_, hexec, hfeed, ?_, txStream_eq_of_growsWithoutTx (growsWithoutTx_feed _ s)⟩
  rw [hfeed, sinkCalls_feed_of_le _ _ (by simp [payloadBytes])]
  exact sinkCalls_append_event _ _

/-- A first byte that is no header ends the attempt, and eight bytes complete no frame (R81). -/
theorem sinkCalls_feed_of_bad_header {v : Byte} {bytes : List Byte} (hk : s.cursor = 0) (hv : v ≠ headerSentinel)
    (hlen : bytes.length ≤ 8) : sinkCalls (feed (v :: bytes) s).outputs = sinkCalls s.outputs := by
  have hreject := (headerStep s v hk).trans (if_neg hv)
  rw [feed_cons, hreject, sinkCalls_feed_of_le _ _ (by simpa using hlen)]
  exact sinkCalls_append_event _ _

/-- A type byte that fails its test ends the attempt, and eight bytes complete no frame (R82). -/
theorem sinkCalls_feed_of_bad_type {type : Byte} {bytes : List Byte} (hk : s.cursor = 0)
    (htype : typeOk s.cfg s.rxOnly type = false) (hlen : bytes.length ≤ 8) :
    sinkCalls (feed (headerSentinel :: type :: bytes) s).outputs = sinkCalls s.outputs := by
  rw [feed_cons, feed_cons, rxStep_header_type_rejected s type hk htype, sinkCalls_feed_of_le _ _ (by simpa using hlen)]
  exact sinkCalls_append_event _ _

theorem sinkCalls_extractOutputs (f : Frame) : sinkCalls (extractOutputs f) = extractOutputs f := by
  rw [extractOutputs]
  split <;> rfl

/-- Of a frame with a passing type, the acts of Extract reach the sink and the event of a bad checksum does not. -/
theorem sinkCalls_frameOutputs (cfg : Config) (f : Frame) :
    sinkCalls (frameOutputs cfg f) = if f[8] = checksum cfg f then extractOutputs f else [] := by
  rw [frameOutputs, apply_ite sinkCalls, sinkCalls_extractOutputs]
  rfl

/-- Settles O41: a frame that passes both tests is judged as a whole; one that fails a test leaves too few bytes. -/
theorem nineBytesReachTheSinkIffValid : Obligations.NineBytesReachTheSinkIffValid := by
  intro s f hk
  by_cases hheader : f[0] = headerSentinel
  · by_cases htype : typeOk s.cfg s.rxOnly f[1] = true
    · rw [feed_frame s f hk hheader htype, sinkCalls_append, sinkCalls_frameOutputs]
      simp only [hheader, htype, true_and]
    · rw [if_neg fun ⟨_, ht, _⟩ => htype ht, List.append_nil]
      obtain ⟨p, hf⟩ := eq_inboundFrame_of_header hheader
      rw [hf]
      exact sinkCalls_feed_of_bad_type s hk (Bool.eq_false_iff.mpr htype) (bytes := payloadBytes p) (by simp [payloadBytes])
  · rw [if_neg fun ⟨hh, _⟩ => hheader hh, List.append_nil]
    obtain ⟨b0, b1, b2, b3, b4, b5, b6, b7, b8, rfl⟩ := frame_eq_nine f
    exact sinkCalls_feed_of_bad_header s hk hheader (bytes := [b1, b2, b3, b4, b5, b6, b7, b8]) (by simp)

/-- Settles O42: the frame's header is judged as the type byte, and the eight bytes behind it complete no frame. -/
theorem strayHeaderLosesTheFrame : Obligations.StrayHeaderLosesTheFrame := by
  intro s f hk htype hheader
  obtain ⟨p, hf⟩ := eq_inboundFrame_of_header hheader
  have hbytes : 0xFF :: f.toList = headerSentinel :: headerSentinel :: f[1] :: payloadBytes p := by
    conv_lhs => rw [hf]
    rfl
  rw [hbytes]
  constructor
  · exact sinkCalls_feed_of_bad_type s hk htype (by simp [payloadBytes])
  · rw [feed_cons, feed_cons, rxStep_header_type_rejected s _ hk htype]
    obtain ⟨more, hmore, -⟩ := growsWithoutTx_feed (f[1] :: payloadBytes p)
      { s with buf := (s.buf.set 0 headerSentinel).set 1 headerSentinel, cursor := 0,
               outputs := s.outputs ++ [.event (.badType headerSentinel)] }
    exact ⟨more, hmore.trans (List.append_assoc _ _ _)⟩

/-! ### The frames of R73 -/

theorem frameOutputs_stamp (cfg : Config) (f : Frame) : frameOutputs cfg (stamp cfg f) = extractOutputs (stamp cfg f) :=
  if_pos (checksum_stamp cfg f).symm

/-- Cutting a 16-bit reading into its bytes and joining them gives it back. -/
theorem rawOf_extractLsb (raw : Raw) : rawOf (raw.extractLsb' 8 8) (raw.extractLsb' 0 8) = raw := by
  rw [rawOf_eq_append]
  exact (BitVec.extractLsb'_append_extractLsb'_eq_extractLsb' rfl).trans BitVec.extractLsb'_eq_self

/-- Under INTENDED the type the mode expects passes (R83). -/
theorem typeOk_expected {cfg : Config} (h : cfg.typeCheck = .intended) (rxOnly : Bool) :
    typeOk cfg rxOnly (if rxOnly then cfg.gasTypeCo else opAnswer) = true := by
  rw [typeOk_of_intended h, typeOkIntended_iff]

/-- Settles O43: both frames are stamped, so Extract runs on them, and it joins the bytes the reading was cut into; with
type 0x86 the broadcast is read where it holds zeros. -/
theorem frameMacrosPublishTheirReading : Obligations.FrameMacrosPublishTheirReading := by
  intro s raw hk hcheck
  constructor
  · intro hmode
    have htype : typeOk s.cfg s.rxOnly opAnswer = true := by
      simpa [hmode] using typeOk_expected hcheck s.rxOnly
    have hraw : frameRaw (answerMacro s.cfg raw) = raw := (frameRaw_of_answer rfl).trans (rawOf_extractLsb raw)
    rw [feed_frame s (answerMacro s.cfg raw) hk rfl htype]
    exact congrArg (s.outputs ++ ·) ((frameOutputs_stamp s.cfg _).trans (extractOutputs_of_frameRaw hraw))
  · intro hmode
    have htype : typeOk s.cfg s.rxOnly s.cfg.gasTypeCo = true := by
      simpa [hmode] using typeOk_expected hcheck s.rxOnly
    rw [feed_frame s (broadcastMacro s.cfg raw) hk rfl htype]
    refine congrArg (s.outputs ++ ·) ((frameOutputs_stamp s.cfg _).trans ?_)
    by_cases hg : s.cfg.gasTypeCo = 0x86
    · have hraw : frameRaw (broadcastMacro s.cfg raw) = 0 :=
        (frameRaw_of_answer (f := broadcastMacro s.cfg raw) hg).trans (by decide : rawOf 0 0 = 0)
      rw [if_pos (.inr hg)]
      exact (extractOutputs_of_frameRaw hraw).trans (if_pos rfl)
    · have hraw : frameRaw (broadcastMacro s.cfg raw) = raw :=
        (frameRaw_of_not_answer (f := broadcastMacro s.cfg raw) hg).trans (rawOf_extractLsb raw)
      exact (extractOutputs_of_frameRaw hraw).trans (if_congr (or_iff_left hg).symm rfl rfl)

/-! ### A frame after a long pause -/

/-- After more than 500 ms a tick begins at cursor 0, whatever was pending (R134). -/
theorem tickStart_of_long_pause (now : Time) (h : 500 < elapsed now s) :
    tickStart now s = { s with
      cursor := 0, lastRx := now % 2 ^ s.cfg.clockW
      outputs := s.outputs ++ if s.cursor = 0 then [] else [.event (.stale s.cursor (elapsed now s))] } := by
  rw [tickStart_eq_ite]
  by_cases hk : s.cursor = 0
  · rw [if_neg (by simp [hk]), if_pos hk, List.append_nil, ← hk]
  · rw [if_pos ⟨Fin.pos_iff_ne_zero.mpr hk, h⟩, if_neg hk]

/-- Settles O49: the stale attempt, if any, is discarded first, so the frame meets cursor 0 and is judged as a whole. -/
theorem frameAfterLongPauseIsDecoded : Obligations.FrameAfterLongPauseIsDecoded := by
  intro s now f later hi hrx hgap hheader htype hok
  have hne : f.toList ≠ [] := List.ne_nil_of_length_eq_add_one f.length_toList
  have houtputs : frameOutputs s.cfg f = extractOutputs f := if_pos ((checksumOk_iff s.cfg f).mp hok).symm
  rw [step_tick_arrivals hi hrx hne, tickStart_of_long_pause (setInputs later s) now hgap, ← houtputs]
  refine congrArg Host.Outcome.next (Eq.trans (feed_frame _ f ?_ hheader ?_) ?_)
  · rfl
  · exact htype
  · rfl

end Sys2Proof.Machine
end
